-- ==== Sys2Proof/Word.lean ====
section
/-! DEFINITION. The plain values of the block (spec/00_scope.md R14): bytes, 16-bit words, byte sequences and names. -/

namespace Sys2Proof

/-- An unsigned 8-bit value (R14). -/
abbrev Byte := BitVec 8

/-- An unsigned 16-bit value, the spec's u16 (R14). -/
abbrev Half := BitVec 16

/-- A finite list of bytes, the spec's byte sequence (R14, R15). -/
abbrev Bytes := List Byte

/-- A finite string: a field name or an instruction name (R14). -/
abbrev Name := String

end Sys2Proof
end

