-- ==== Sys2Proof/Config.lean ====
section
/-! DEFINITION. The types of the block's two construction parameters (spec/00_scope.md R8 to R10): the CRC policy, and
the entries an instruction registry is made of, with the layouts they carry. There is no other parameter (R10), and
the spec leaves no result undefined, so the configuration holds no free value. -/

namespace Sys2Proof

/-- Parameter `CRC_POLICY` (R9): whether DISASSEMBLE rejects a frame whose CRC field differs from the recomputed CRC. -/
inductive CrcPolicy where
  | strict
  | lenient
  deriving DecidableEq, Repr

/-- A field descriptor `{name, tag, n}` (R97). `n` is the width of a `bytes(N)` field and is ignored for other tags.
The tag is a raw byte, so a layout may hold an undefined tag code; R171 checks it. -/
structure FieldDesc where
  name : Name
  tag : Byte
  n : Half
  deriving DecidableEq, Repr

/-- An ordered list of field descriptors (R97). -/
abbrev Layout := List FieldDesc

/-- A registry entry `{op, name, out, in}` (R210): `outLayout` lays out the params of the instruction frame and
`inLayout` those of the status frame that replies to it. -/
structure Entry where
  op : Byte
  name : Name
  outLayout : Layout
  inLayout : Layout
  deriving DecidableEq, Repr

end Sys2Proof
end

