-- ==== Sys2Proof/Syntax.lean ====
section
/-! DEFINITION. The instructions: one constructor per row of spec/opcode_table.json, the twelve commands of the command
port (format CMD, spec/30_encoding.md R92) and the thirteen wire frames (format WIRE, R99); and what the host issues to
the block, a command record (R90) or a received frame handed to the packet disassembler (R282). -/

namespace Sys2Proof

/-- A field value (R98): an Int for the integer tags, a byte sequence for `bytes(N)` and `greedy`. -/
inductive FieldValue where
  | int (v : Int)
  | bytes (b : Bytes)
  deriving DecidableEq, Repr

/-- A `values` operand or result: an ordered list of (name, value) pairs (R98). -/
abbrev Values := List (Name × FieldValue)

/-- The instructions of spec/opcode_table.json, in the table's order. Operands of a command are those of R92. Operands
of a wire frame are its id (frame offset 4) and the fields of its REF `out` layout (R221), or, for a status frame,
whose layout the frame does not determine (R45), its unstuffed params. -/
inductive Instr where
  /-- CRC16, code 0x01 (R127). -/
  | crc16 (seed : Half) (data : Bytes)
  /-- CRC_FEED, code 0x02 (R128). -/
  | crcFeed (data : Bytes)
  /-- STUFF, code 0x10 (R148). -/
  | stuff (w0 : BitVec 2) (data : Bytes)
  /-- UNSTUFF, code 0x11 (R149). -/
  | unstuff (w0 : BitVec 2) (p0 : Bool) (data : Bytes)
  /-- PACK, code 0x20 (R180). -/
  | pack (layout : Layout) (values : Values)
  /-- UNPACK, code 0x21 (R181). -/
  | unpack (layout : Layout) (data : Bytes)
  /-- GET_FIELD, code 0x22 (R182). -/
  | getField (values : Values) (fname : Name)
  /-- DET_PUSH, code 0x30 (R248). -/
  | detPush (b : Byte)
  /-- DET_CLEAR, code 0x31 (R249). -/
  | detClear
  /-- ASSEMBLE, code 0x40 (R273). -/
  | assemble (iname : Name) (id : Byte) (values : Values)
  /-- DISASSEMBLE, code 0x41 (R281). -/
  | disassemble (frame : Bytes)
  /-- RESET, code 0xF0 (R310). -/
  | reset
  /-- A status frame, INST 0x55 (R214, R216). -/
  | status (id : Byte) (params : Bytes)
  /-- A `ping` instruction frame, INST 0x01 (R222). -/
  | ping (id : Byte)
  /-- A `read` instruction frame, INST 0x02 (R223). -/
  | read (id : Byte) (address length : Half)
  /-- A `write` instruction frame, INST 0x03 (R224). -/
  | write (id : Byte) (address : Half) (data : Bytes)
  /-- A `reg_write` instruction frame, INST 0x04 (R225). -/
  | regWrite (id : Byte) (address : Half) (data : Bytes)
  /-- An `action` instruction frame, INST 0x05 (R226). -/
  | action (id : Byte)
  /-- A `factory_reset` instruction frame, INST 0x06 (R227). -/
  | factoryReset (id : Byte) (option : Byte)
  /-- A `reboot` instruction frame, INST 0x08 (R228). -/
  | reboot (id : Byte)
  /-- A `clear` instruction frame, INST 0x10 (R229); `key` is a bytes(4) field. -/
  | clear (id : Byte) (option : Byte) (key : Bytes)
  /-- A `sync_read` instruction frame, INST 0x82 (R230). -/
  | syncRead (id : Byte) (address length : Half) (ids : Bytes)
  /-- A `sync_write` instruction frame, INST 0x83 (R231). -/
  | syncWrite (id : Byte) (address length : Half) (data : Bytes)
  /-- A `bulk_read` instruction frame, INST 0x92 (R232). -/
  | bulkRead (id : Byte) (data : Bytes)
  /-- A `bulk_write` instruction frame, INST 0x93 (R233). -/
  | bulkWrite (id : Byte) (data : Bytes)
  deriving DecidableEq, Repr

/-- A command record `{code, operands}` as the command port carries it (R88, R90): the code, and one typed lane for
each operand of R91. The code selects the lanes that are read (R92); the others are not looked at. -/
structure Command where
  code : Byte
  seed : Half := 0
  data : Bytes := []
  w0 : BitVec 2 := 0
  p0 : Bool := false
  layout : Layout := []
  values : Values := []
  fname : Name := ""
  b : Byte := 0
  iname : Name := ""
  id : Byte := 0
  frame : Bytes := []
  deriving DecidableEq, Repr

/-- What the host issues to the block. DESIGN CHOICE (notes/assumptions/2.md), safe: `frame f` is the issue of
DISASSEMBLE for a frame `f` that the data flow of R282 delivers, kept as wire bytes so that the WIRE rows of the opcode
table, whose match applies to frame offset 7, have an encoding of their own. -/
inductive Issue where
  | command (c : Command)
  | frame (f : Bytes)
  deriving DecidableEq, Repr

/-- CRC_LOAD, shorthand for `CRC16 seed, []` (R103). -/
def Instr.crcLoad (seed : Half) : Instr := .crc16 seed []

end Sys2Proof
end

