-- ==== Sys2Proof/Machine/Errors.lean ====
section
/-! DEFINITION. The error kinds, their subcauses and the form of an error (spec/60_exceptions.md R320 to R328). -/

namespace Sys2Proof.Machine

/-- The error kinds of R320. The four kinds of R321 have codes and are raised by no command in scope. -/
inductive ErrorKind where
  | malformedFrame
  | unknownInstruction
  | unknownField
  | notWritable
  | sizeMismatch
  | noPriorInstruction
  | receiveTimeout
  | responseTimeout
  | badCommand
  | badOperand
  | layoutError
  | missingField
  | fieldValue
  | payloadLength
  | idRange
  | frameTooLong
  | detectorBusy
  deriving DecidableEq, Repr

/-- MalformedFrame subcauses (R322). -/
inductive MalformedSub where
  | short | header | length | id | crc | escape | payload
  deriving DecidableEq, Repr

/-- LayoutError subcauses (R323). -/
inductive LayoutSub where
  | greedyNotLast | dupName | badTag
  deriving DecidableEq, Repr

/-- FieldValue subcauses (R324). -/
inductive FieldSub where
  | range | length | type | dup
  deriving DecidableEq, Repr

/-- PayloadLength subcauses (R325). -/
inductive LengthSub where
  | short | long
  deriving DecidableEq, Repr

/-- The `info` an error reports (R327): a name, a byte value, or none. -/
inductive Info where
  | none
  | name (nm : Name)
  | byte (b : Byte)
  deriving DecidableEq, Repr

/-- What `raise Kind(sub, info)` carries (R18). -/
structure Raise where
  kind : ErrorKind
  sub : Byte
  info : Info
  deriving DecidableEq, Repr

end Sys2Proof.Machine
end

