-- ==== Sys2Proof/Machine/Flags.lean ====
section
/-! DEFINITION. The numbers the `status` register reports: error codes and subcauses (spec/60_exceptions.md R320 to
R325), and the named errors built from them. -/

namespace Sys2Proof.Machine

/-- The error code `status.code` holds after an error of this kind (R320). -/
def ErrorKind.code : ErrorKind → Byte
  | .malformedFrame => 0x01
  | .unknownInstruction => 0x02
  | .unknownField => 0x03
  | .notWritable => 0x04
  | .sizeMismatch => 0x05
  | .noPriorInstruction => 0x06
  | .receiveTimeout => 0x07
  | .responseTimeout => 0x08
  | .badCommand => 0x10
  | .badOperand => 0x11
  | .layoutError => 0x12
  | .missingField => 0x13
  | .fieldValue => 0x14
  | .payloadLength => 0x15
  | .idRange => 0x16
  | .frameTooLong => 0x17
  | .detectorBusy => 0x18

/-- R322. -/
def MalformedSub.code : MalformedSub → Byte
  | .short => 1 | .header => 2 | .length => 3 | .id => 4 | .crc => 5 | .escape => 6 | .payload => 7

/-- R323. -/
def LayoutSub.code : LayoutSub → Byte
  | .greedyNotLast => 1 | .dupName => 2 | .badTag => 3

/-- R324. -/
def FieldSub.code : FieldSub → Byte
  | .range => 1 | .length => 2 | .type => 3 | .dup => 4

/-- R325. -/
def LengthSub.code : LengthSub → Byte
  | .short => 1 | .long => 2

/-- MalformedFrame with a subcause; only ID reports an info (R327). -/
def malformed (m : MalformedSub) : Raise := ⟨.malformedFrame, m.code, .none⟩

/-- MalformedFrame ID with the offending id byte (R275, R327). -/
def malformedId (id : Byte) : Raise := ⟨.malformedFrame, MalformedSub.id.code, .byte id⟩

/-- LayoutError at a named field (R171). -/
def layoutError (l : LayoutSub) (nm : Name) : Raise := ⟨.layoutError, l.code, .name nm⟩

/-- FieldValue at a named field (R177). -/
def fieldError (f : FieldSub) (nm : Name) : Raise := ⟨.fieldValue, f.code, .name nm⟩

/-- PayloadLength (R178). -/
def lengthError (l : LengthSub) : Raise := ⟨.payloadLength, l.code, .none⟩

/-- UnknownField for a name (R177, R182). -/
def unknownField (nm : Name) : Raise := ⟨.unknownField, 0, .name nm⟩

/-- MissingField for a descriptor's name (R177). -/
def missingField (nm : Name) : Raise := ⟨.missingField, 0, .name nm⟩

/-- UnknownInstruction for a symbolic name (R212). -/
def unknownName (nm : Name) : Raise := ⟨.unknownInstruction, 0, .name nm⟩

/-- UnknownInstruction for a wire opcode (R213). -/
def unknownOpcode (op : Byte) : Raise := ⟨.unknownInstruction, 0, .byte op⟩

/-- NoPriorInstruction (R216). -/
def noPriorInstruction : Raise := ⟨.noPriorInstruction, 0, .none⟩

/-- IdRange with the id byte (R274). -/
def idRange (id : Byte) : Raise := ⟨.idRange, 0, .byte id⟩

/-- FrameTooLong (R273). -/
def frameTooLong : Raise := ⟨.frameTooLong, 0, .none⟩

/-- DetectorBusy with the refused byte (R245). -/
def detectorBusy (b : Byte) : Raise := ⟨.detectorBusy, 0, .byte b⟩

/-- BadOperand with the operand's value (R311). -/
def badOperand (w0 : BitVec 2) : Raise := ⟨.badOperand, 0, .byte (w0.setWidth 8)⟩

/-- BadCommand with the command code (R311). -/
def badCommandError (code : Byte) : Raise := ⟨.badCommand, 0, .byte code⟩

/-- One check of a command's pseudocode: `if not c then raise r` (R18). -/
def require (c : Bool) (r : Raise) : Except Raise Unit := if c then .ok () else .error r

end Sys2Proof.Machine
end

