-- ==== Sys2Proof/Machine/Operands.lean ====
section
/-! DEFINITION. How operand values are assembled from bytes and bits (spec/30_encoding.md R101, spec/00_scope.md R15,
R16), the fixed constants of the wire format (R11, R12), the integer codecs (spec/43_field_codec.md R174 to R176) and
the legality of operands (R84, R94). -/

namespace Sys2Proof.Machine

/-- The frame header `HDR` (R11). -/
def hdr : Bytes := [0xFF, 0xFF, 0xFD, 0x00]

/-- The reserved status opcode `STATUS_OP` (R11, R85). -/
def statusOp : Byte := 0x55

/-- The broadcast id `BCAST_ID` (R11, R84). -/
def broadcastId : Byte := 0xFE

/-- `DET_CAPACITY`, the largest buffer the detector ever holds, which is also the largest frame (R12). -/
def detCapacity : Nat := 65542

/-- `s[i]` (R15). Every use stands behind a check that `i < len(s)`; outside it the spec gives no byte and 0 stands. -/
def byteAt (s : Bytes) (i : Nat) : Byte := s.getD i 0

/-- `s[i..j)` (R15). -/
def slice (s : Bytes) (i j : Nat) : Bytes := (s.drop i).take (j - i)

/-- `LE16(lo, hi)` (R16). -/
def le16 (lo hi : Byte) : Nat := lo.toNat + 256 * hi.toNat

/-- The `w` low bytes of an unsigned value, least significant byte first (R62, R175). -/
def leBytes : Nat → Nat → Bytes
  | 0, _ => []
  | w + 1, u => BitVec.ofNat 8 u :: leBytes w (u / 256)

/-- `sum over k of s[k] * 256^k` (R176). -/
def leNat : Bytes → Nat
  | [] => 0
  | b :: bs => b.toNat + 256 * leNat bs

/-- A u16 field's two bytes, low byte first (R62). -/
def halfBytes (x : Half) : Bytes := leBytes 2 x.toNat

/-- The u16 of two bytes, low byte first (R62). -/
def halfOf (lo hi : Byte) : Half := BitVec.ofNat 16 (le16 lo hi)

/-- `encode_int(v, w)`: two's complement, least significant byte first (R175). -/
def encodeInt (v : Int) (w : Nat) : Bytes :=
  leBytes w (if 0 ≤ v then v.toNat else (v + (2 ^ (8 * w) : Nat)).toNat)

/-- `sext_N(v)` for `v` an unsigned N-bit value (R16). -/
def signExtend (nbits v : Nat) : Int :=
  if 2 ^ (nbits - 1) ≤ v then (v : Int) - (2 ^ nbits : Nat) else v

/-- `decode_int(s, signed)` (R176). -/
def decodeInt (s : Bytes) (signed : Bool) : Int :=
  if signed then signExtend (8 * s.length) (leNat s) else leNat s

/-- The legal values of an integer tag of `w` bytes (R174). -/
def inRange (w : Nat) (signed : Bool) (v : Int) : Bool :=
  if signed then decide (-(2 ^ (8 * w - 1) : Nat) ≤ v ∧ v < (2 ^ (8 * w - 1) : Nat))
  else decide (0 ≤ v ∧ v < (2 ^ (8 * w) : Nat))

/-- `legal_id(x)`: `x <= 0xFC` or `x = 0xFE` (R274, R84). -/
def legalId (x : Byte) : Bool := decide (x.toNat ≤ 0xFC) || x == broadcastId

/-- A frame's total length, once the seven header bytes are present (R87). -/
def frameLength? (f : Bytes) : Option Nat :=
  if 7 ≤ f.length then some (le16 (byteAt f 5) (byteAt f 6) + 7) else none

/-- The stuffing matcher's window state: how many bytes of `FF FF FD` are matched, 0, 1 or 2 (R140). -/
inductive Window where
  | zero
  | one
  | two
  deriving DecidableEq, Repr

/-- The window state a 2-bit operand `w0` selects; 3 is outside the legal values (R91, R94). -/
def windowOf? (w0 : BitVec 2) : Option Window :=
  if w0 = 0 then some .zero else if w0 = 1 then some .one else if w0 = 2 then some .two else none

/-- The window operand, or BadOperand when it is outside its legal range (R94, R311). -/
def windowOperand (w0 : BitVec 2) : Except Raise Window :=
  match windowOf? w0 with
  | some w => .ok w
  | none => .error (badOperand w0)

/-- The 2-bit value of a window state (R91). -/
def Window.code : Window → BitVec 2
  | .zero => 0
  | .one => 1
  | .two => 2

end Sys2Proof.Machine
end

