-- ==== Sys2Proof/Machine/Stuffing.lean ====
section
/-! DEFINITION. The byte-stuffing codec (spec/42_stuffing.md R140 to R144): the window matcher, stuffing and
unstuffing. Both directions are total. -/

namespace Sys2Proof.Machine

/-- The escape byte, inserted after each occurrence of `FF FF FD` (R142). -/
def escapeByte : Byte := 0xFD

/-- `win_step(w, b)`: the next window state, and whether `FF FF FD` has just been completed (R140). -/
def winStep (w : Window) (b : Byte) : Window × Bool :=
  match w with
  | .zero => if b = 0xFF then (.one, false) else (.zero, false)
  | .one => if b = 0xFF then (.two, false) else (.zero, false)
  | .two => if b = 0xFD then (.zero, true) else if b = 0xFF then (.two, false) else (.zero, false)

/-- `stuff(w0, x)` (R142): the stuffed sequence and the end state of the window. The inserted byte is not scanned. -/
def stuff (w : Window) : Bytes → Bytes × Window
  | [] => ([], w)
  | x :: xs =>
    if (winStep w x).2 then (x :: escapeByte :: (stuff .zero xs).1, (stuff .zero xs).2)
    else (x :: (stuff (winStep w x).1 xs).1, (stuff (winStep w x).1 xs).2)

/-- What `unstuff` returns (R143): the kept bytes, the window state, whether an escape is due at the end, and whether a
due escape was missing. -/
structure Unstuffed where
  out : Bytes
  wEnd : Window
  pEnd : Bool
  esc : Bool
  deriving DecidableEq, Repr

/-- `unstuff(w0, p0, y)` (R143). A due escape is dropped unscanned; a byte that is not the due escape is kept and
flagged. -/
def unstuff (w : Window) (p : Bool) : Bytes → Unstuffed
  | [] => ⟨[], w, p, false⟩
  | y :: ys =>
    if p && y == escapeByte then unstuff .zero false ys
    else
      let r := if (winStep w y).2 then unstuff .zero true ys else unstuff (winStep w y).1 false ys
      ⟨y :: r.out, r.wEnd, r.pEnd, p || r.esc⟩

/-- The window state in which a frame's PARAM span begins when it is unstuffed: the state INST leaves (R144). -/
def primedWindow (inst : Byte) : Window := (winStep .zero inst).1

end Sys2Proof.Machine
end

