-- ==== Sys2Proof/Machine/Frame.lean ====
section
/-! DEFINITION. The wire frame (spec/30_encoding.md R80 to R87): building one from an opcode, an id and unstuffed
params, and opening one, with the structural, CRC and escape checks of spec/46_packet.md R275 to R277. -/

namespace Sys2Proof.Machine

/-- The stuffed span `[INST] ++ params`, scanned from window state 0 (R144, R273). -/
def stuffedSpan (op : Byte) (params : Bytes) : Bytes := (stuff .zero (op :: params)).1

/-- The declared length `L`: the stuffed PARAM length plus 3 (R81, R273). -/
def declaredLength (op : Byte) (params : Bytes) : Nat := ((stuffedSpan op params).length - 1) + 3

/-- The frame from offset 0 through the last PARAM byte, the span its CRC covers (R80, R82). -/
def frameBody (op id : Byte) (params : Bytes) : Bytes :=
  hdr ++ [id] ++ leBytes 2 (declaredLength op params) ++ stuffedSpan op params

/-- The frame's CRC, seeded with 0 (R124). -/
def frameCrc (op id : Byte) (params : Bytes) : Half := crc16 0 (frameBody op id params)

/-- The whole frame, its CRC low byte first (R80, R124). The declared length is its 16-bit field only when
`declaredLength` fits it; ASSEMBLE and well-formedness check that. -/
def buildFrame (op id : Byte) (params : Bytes) : Bytes :=
  frameBody op id params ++ halfBytes (frameCrc op id params)

/-- What the checks R275 to R277 leave of a frame: id, INST, the unstuffed params, the received CRC and whether it
matches. -/
structure Opened where
  id : Byte
  inst : Byte
  params : Bytes
  crc : Half
  crcOk : Bool
  deriving DecidableEq, Repr

/-- The received CRC `rx` (R276). -/
def receivedCrc (f : Bytes) : Half :=
  halfOf (byteAt f (f.length - 2)) (byteAt f (f.length - 1))

/-- The recomputed CRC `calc` (R276, R124). -/
def computedCrc (f : Bytes) : Half := crc16 0 (slice f 0 (f.length - 2))

/-- `unstuff(win_step(0, inst).w', 0, f[8..n-2))` (R277). -/
def frameParams (f : Bytes) : Unstuffed :=
  unstuff (primedWindow (byteAt f 7)) false (slice f 8 (f.length - 2))

/-- The checks DISASSEMBLE makes before it resolves a frame, in the spec's order: SHORT, HEADER, LENGTH, ID (R275), CRC
under STRICT (R276), ESCAPE (R277). -/
def openFrame (policy : CrcPolicy) (f : Bytes) : Except Raise Opened := do
  require (decide (10 ≤ f.length)) (malformed .short)
  require (slice f 0 4 == hdr) (malformed .header)
  require (decide (3 ≤ le16 (byteAt f 5) (byteAt f 6)) &&
    decide (f.length = le16 (byteAt f 5) (byteAt f 6) + 7)) (malformed .length)
  require (legalId (byteAt f 4)) (malformedId (byteAt f 4))
  require (receivedCrc f == computedCrc f || policy == .lenient) (malformed .crc)
  require (!((frameParams f).esc || (frameParams f).pEnd)) (malformed .escape)
  .ok ⟨byteAt f 4, byteAt f 7, (frameParams f).out, receivedCrc f, receivedCrc f == computedCrc f⟩

/-- The params of a `read` frame: `{address:u16, length:u16}` (R223). -/
def readParams (address length : Half) : Bytes := halfBytes address ++ halfBytes length

/-- The params of a `write` or `reg_write` frame: `{address:u16, data:greedy}` (R224, R225). -/
def writeParams (address : Half) (data : Bytes) : Bytes := halfBytes address ++ data

/-- The params of a `clear` frame: `{option:u8, key:bytes(4)}` (R229). -/
def clearParams (option : Byte) (key : Bytes) : Bytes := option :: key

/-- The params of a `sync_read` or `sync_write` frame: `{address:u16, length:u16, ids or data:greedy}` (R230, R231). -/
def syncParams (address length : Half) (rest : Bytes) : Bytes :=
  halfBytes address ++ (halfBytes length ++ rest)

end Sys2Proof.Machine
end

