-- ==== Sys2Proof/WellFormed.lean ====
section
/-! DEFINITION. Which instructions the encodings of spec/30_encoding.md admit: the window operand's legal values (R91,
R94) and, for a wire frame, a legal id (R84), a declared length of 16 bits (R81, R86) and a `clear` key of 4 bytes
(R229). A command's layouts, names, values and ids are not operand legality (R94): the command checks them. -/

namespace Sys2Proof

open Machine

/-- A wire frame that can be written: its id is legal and its declared length fits 16 bits (R84, R81). -/
def frameWellFormed (op id : Byte) (params : Bytes) : Bool :=
  legalId id && decide (declaredLength op params ≤ 0xFFFF)

/-- The instruction is one its encoding can carry. -/
def Instr.wellFormed : Instr → Bool
  | .crc16 _ _ => true
  | .crcFeed _ => true
  | .stuff w0 _ => (windowOf? w0).isSome
  | .unstuff w0 _ _ => (windowOf? w0).isSome
  | .pack _ _ => true
  | .unpack _ _ => true
  | .getField _ _ => true
  | .detPush _ => true
  | .detClear => true
  | .assemble _ _ _ => true
  | .disassemble _ => true
  | .reset => true
  | .status id params => frameWellFormed 0x55 id params
  | .ping id => frameWellFormed 0x01 id []
  | .read id address length => frameWellFormed 0x02 id (readParams address length)
  | .write id address data => frameWellFormed 0x03 id (writeParams address data)
  | .regWrite id address data => frameWellFormed 0x04 id (writeParams address data)
  | .action id => frameWellFormed 0x05 id []
  | .factoryReset id option => frameWellFormed 0x06 id [option]
  | .reboot id => frameWellFormed 0x08 id []
  | .clear id option key => frameWellFormed 0x10 id (clearParams option key) && decide (key.length = 4)
  | .syncRead id address length ids => frameWellFormed 0x82 id (syncParams address length ids)
  | .syncWrite id address length data => frameWellFormed 0x83 id (syncParams address length data)
  | .bulkRead id data => frameWellFormed 0x92 id data
  | .bulkWrite id data => frameWellFormed 0x93 id data

end Sys2Proof
end

