-- ==== Sys2Proof/Decode.lean ====
section
/-! DEFINITION. Decoding what the host issues, and the encoder beside it. A command decodes by its code (R92), every
code outside the table being rejected by name (R93). A frame decodes by its INST byte at offset 7 (R85, R99) once the
checks of R275 to R277 pass and its params fit the REF layout of that opcode. -/

namespace Sys2Proof

open Machine

/-- Why a command is no instruction of the table. -/
inductive DecodeError where
  /-- The code is one of the 244 unassigned codes (R93). -/
  | unassignedCode (code : Byte)
  deriving DecidableEq, Repr

/-- Why a frame is no WIRE row of the table. Such a frame is still an operand of DISASSEMBLE (R281). -/
inductive FrameReject where
  /-- A check of R275 to R277 fails. -/
  | malformed (r : Raise)
  /-- INST is none of the table's wire opcodes. -/
  | notInTable (op : Byte)
  /-- The params do not fit the REF layout of the opcode. -/
  | paramsDoNotFit (op : Byte)
  deriving DecidableEq, Repr

/-- A command as an instruction: the code selects the operands read (R92). -/
def decodeCommand (c : Command) : Except DecodeError Instr :=
  if c.code = 0x01 then .ok (.crc16 c.seed c.data)
  else if c.code = 0x02 then .ok (.crcFeed c.data)
  else if c.code = 0x10 then .ok (.stuff c.w0 c.data)
  else if c.code = 0x11 then .ok (.unstuff c.w0 c.p0 c.data)
  else if c.code = 0x20 then .ok (.pack c.layout c.values)
  else if c.code = 0x21 then .ok (.unpack c.layout c.data)
  else if c.code = 0x22 then .ok (.getField c.values c.fname)
  else if c.code = 0x30 then .ok (.detPush c.b)
  else if c.code = 0x31 then .ok .detClear
  else if c.code = 0x40 then .ok (.assemble c.iname c.id c.values)
  else if c.code = 0x41 then .ok (.disassemble c.frame)
  else if c.code = 0xF0 then .ok .reset
  else .error (.unassignedCode c.code)

/-- The instruction of a frame without params. -/
def bareFrame (op : Byte) (i : Instr) : Bytes → Except FrameReject Instr
  | [] => .ok i
  | _ => .error (.paramsDoNotFit op)

/-- The instruction of a `{address:u16, greedy}` frame. -/
def addressFrame (op : Byte) (mk : Half → Bytes → Instr) : Bytes → Except FrameReject Instr
  | a0 :: a1 :: rest => .ok (mk (halfOf a0 a1) rest)
  | _ => .error (.paramsDoNotFit op)

/-- The instruction of a `{address:u16, length:u16, greedy}` frame. -/
def addressLengthFrame (op : Byte) (mk : Half → Half → Bytes → Instr) :
    Bytes → Except FrameReject Instr
  | a0 :: a1 :: l0 :: l1 :: rest => .ok (mk (halfOf a0 a1) (halfOf l0 l1) rest)
  | _ => .error (.paramsDoNotFit op)

/-- The wire instruction with an INST byte, an id and unstuffed params (R221 to R233 for the layouts). -/
def decodeParams (inst id : Byte) (params : Bytes) : Except FrameReject Instr :=
  if inst = 0x55 then .ok (.status id params)
  else if inst = 0x01 then bareFrame inst (.ping id) params
  else if inst = 0x02 then
    match params with
    | [a0, a1, l0, l1] => .ok (.read id (halfOf a0 a1) (halfOf l0 l1))
    | _ => .error (.paramsDoNotFit inst)
  else if inst = 0x03 then addressFrame inst (.write id) params
  else if inst = 0x04 then addressFrame inst (.regWrite id) params
  else if inst = 0x05 then bareFrame inst (.action id) params
  else if inst = 0x06 then
    match params with
    | [o] => .ok (.factoryReset id o)
    | _ => .error (.paramsDoNotFit inst)
  else if inst = 0x08 then bareFrame inst (.reboot id) params
  else if inst = 0x10 then
    match params with
    | [o, k0, k1, k2, k3] => .ok (.clear id o [k0, k1, k2, k3])
    | _ => .error (.paramsDoNotFit inst)
  else if inst = 0x82 then addressLengthFrame inst (.syncRead id) params
  else if inst = 0x83 then addressLengthFrame inst (.syncWrite id) params
  else if inst = 0x92 then .ok (.bulkRead id params)
  else if inst = 0x93 then .ok (.bulkWrite id params)
  else .error (.notInTable inst)

/-- A frame as a wire instruction, or the named reason it is none. Total on any bytes. -/
def decodeFrame (f : Bytes) : Except FrameReject Instr :=
  match openFrame .strict f with
  | .error r => .error (.malformed r)
  | .ok o => decodeParams o.inst o.id o.params

/-- The instruction an issue stands for. A frame that is no WIRE row is the operand of a DISASSEMBLE (R282). -/
def decode : Issue → Except DecodeError Instr
  | .command c => decodeCommand c
  | .frame f =>
    match decodeFrame f with
    | .ok i => .ok i
    | .error _ => .ok (.disassemble f)

/-- The issue that carries an instruction: the command record of its code (R92), or its whole frame (R80). -/
def encode : Instr → Issue
  | .crc16 seed data => .command { code := 0x01, seed := seed, data := data }
  | .crcFeed data => .command { code := 0x02, data := data }
  | .stuff w0 data => .command { code := 0x10, w0 := w0, data := data }
  | .unstuff w0 p0 data => .command { code := 0x11, w0 := w0, p0 := p0, data := data }
  | .pack layout values => .command { code := 0x20, layout := layout, values := values }
  | .unpack layout data => .command { code := 0x21, layout := layout, data := data }
  | .getField values fname => .command { code := 0x22, values := values, fname := fname }
  | .detPush b => .command { code := 0x30, b := b }
  | .detClear => .command { code := 0x31 }
  | .assemble iname id values => .command { code := 0x40, iname := iname, id := id, values := values }
  | .disassemble frame => .command { code := 0x41, frame := frame }
  | .reset => .command { code := 0xF0 }
  | .status id params => .frame (buildFrame 0x55 id params)
  | .ping id => .frame (buildFrame 0x01 id [])
  | .read id address length => .frame (buildFrame 0x02 id (readParams address length))
  | .write id address data => .frame (buildFrame 0x03 id (writeParams address data))
  | .regWrite id address data => .frame (buildFrame 0x04 id (writeParams address data))
  | .action id => .frame (buildFrame 0x05 id [])
  | .factoryReset id option => .frame (buildFrame 0x06 id [option])
  | .reboot id => .frame (buildFrame 0x08 id [])
  | .clear id option key => .frame (buildFrame 0x10 id (clearParams option key))
  | .syncRead id address length ids => .frame (buildFrame 0x82 id (syncParams address length ids))
  | .syncWrite id address length data => .frame (buildFrame 0x83 id (syncParams address length data))
  | .bulkRead id data => .frame (buildFrame 0x92 id data)
  | .bulkWrite id data => .frame (buildFrame 0x93 id data)

/-- Whether a byte is an assigned command code (R92). -/
def assignedCode (code : Byte) : Bool :=
  match decodeCommand { code := code } with
  | .ok _ => true
  | .error _ => false

/-- The zero params of a wire opcode's REF layout: as many zero bytes as the layout's fixed part (R221). -/
def zeroParams (op : Byte) : Bytes :=
  if op = 0x02 then [0, 0, 0, 0]
  else if op = 0x03 then [0, 0]
  else if op = 0x04 then [0, 0]
  else if op = 0x06 then [0]
  else if op = 0x10 then [0, 0, 0, 0, 0]
  else if op = 0x82 then [0, 0, 0, 0]
  else if op = 0x83 then [0, 0, 0, 0]
  else []

/-- What a word of the opcode table stands for, its operands zero: a command when the byte is an assigned command code
(R92), else the frame with that INST byte when it is a wire opcode of the table (R99), else a command with that
unassigned code (R93). DESIGN CHOICE (notes/assumptions/3.md), safe: three bytes are both a command code and a wire
opcode (0x01, 0x02, 0x10), and a bare word of the table cannot tell them apart; the command is taken. -/
def tableIssue (w : Byte) : Issue :=
  if assignedCode w then .command { code := w }
  else
    match decodeFrame (buildFrame w 0 (zeroParams w)) with
    | .ok _ => .frame (buildFrame w 0 (zeroParams w))
    | .error _ => .command { code := w }

/-- The instruction the decoder reads from a word of spec/opcode_table.json (every row there is one byte). -/
def decodeTableWord (nbits w : Nat) : Option Instr :=
  if nbits = 8 ∧ w < 256 then
    match decode (tableIssue (BitVec.ofNat 8 w)) with
    | .ok i => some i
    | .error _ => none
  else none

end Sys2Proof
end

