-- ==== Sys2Proof/Machine/FieldCodec.lean ====
section
/-! DEFINITION. The field codec (spec/43_field_codec.md R170 to R178, R182): widths, layout checks, packing, unpacking
and access by name. -/

namespace Sys2Proof.Machine

/-- What a type tag stands for: an integer of `width` bytes, a fixed array, or the greedy array (R96, R170). -/
inductive FieldKind where
  | int (width : Nat) (signed : Bool)
  | fixed
  | greedy
  deriving DecidableEq, Repr

/-- The type tags of R96; any other tag code is ill-formed. -/
def fieldKind (tag : Byte) : Option FieldKind :=
  if tag = 0x01 then some (.int 1 false)
  else if tag = 0x02 then some (.int 2 false)
  else if tag = 0x04 then some (.int 4 false)
  else if tag = 0x11 then some (.int 1 true)
  else if tag = 0x12 then some (.int 2 true)
  else if tag = 0x14 then some (.int 4 true)
  else if tag = 0x20 then some .fixed
  else if tag = 0x30 then some .greedy
  else none

/-- Whether a descriptor is the greedy array (R96). -/
def isGreedy (d : FieldDesc) : Bool := fieldKind d.tag == some .greedy

/-- `wd(d)` (R170). The greedy array has no width of its own and adds nothing to `fixed(lay)`. -/
def fieldWidth (d : FieldDesc) : Nat :=
  match fieldKind d.tag with
  | some (.int w _) => w
  | some .fixed => d.n.toNat
  | _ => 0

/-- The checks of `wf_layout` from one descriptor on, the names before it being `seen` (R171). -/
def wfLayoutFrom (seen : List Name) : Layout → Except Raise Unit
  | [] => .ok ()
  | d :: rest =>
    if (fieldKind d.tag).isNone then .error (layoutError .badTag d.name)
    else if isGreedy d && !rest.isEmpty then .error (layoutError .greedyNotLast d.name)
    else if seen.contains d.name then .error (layoutError .dupName d.name)
    else wfLayoutFrom (d.name :: seen) rest

/-- `wf_layout(lay)` (R171): the first descriptor that fails raises. -/
def wfLayout (lay : Layout) : Except Raise Unit := wfLayoutFrom [] lay

/-- Whether `wf_layout` succeeds (R211(d)). -/
def layoutOk (lay : Layout) : Bool :=
  match wfLayout lay with
  | .ok _ => true
  | .error _ => false

/-- `fixed(lay)` (R172). -/
def fixedSize : Layout → Nat
  | [] => 0
  | d :: rest => fieldWidth d + fixedSize rest

/-- `greedy(lay)`: the last descriptor is greedy (R172). -/
def greedyLayout (lay : Layout) : Bool :=
  match lay.getLast? with
  | some d => isGreedy d
  | none => false

/-- The first pair with a name (R182). -/
def lookupValue (nm : Name) : Values → Option FieldValue
  | [] => none
  | (k, v) :: rest => if k = nm then some v else lookupValue nm rest

/-- The first name of `values` that no descriptor of the layout has (R177). -/
def checkUnknown (lay : Layout) : Values → Except Raise Unit
  | [] => .ok ()
  | (k, _) :: rest =>
    if (lay.map FieldDesc.name).contains k then checkUnknown lay rest else .error (unknownField k)

/-- The first pair whose name an earlier pair has (R177). -/
def checkDup (seen : List Name) : Values → Except Raise Unit
  | [] => .ok ()
  | (k, _) :: rest =>
    if seen.contains k then .error (fieldError .dup k) else checkDup (k :: seen) rest

/-- The first descriptor, in layout order, that no pair names (R177). -/
def checkMissing (vals : Values) : Layout → Except Raise Unit
  | [] => .ok ()
  | d :: rest =>
    if (lookupValue d.name vals).isSome then checkMissing vals rest else .error (missingField d.name)

/-- The bytes of one field, or the FieldValue error of its value (R173, R174, R177): TYPE before RANGE or LENGTH. -/
def packField (d : FieldDesc) (v : FieldValue) : Except Raise Bytes :=
  match fieldKind d.tag, v with
  | some (.int w sg), .int x =>
    if inRange w sg x then .ok (encodeInt x w) else .error (fieldError .range d.name)
  | some .fixed, .bytes b =>
    if b.length = d.n.toNat then .ok b else .error (fieldError .length d.name)
  | some .greedy, .bytes b => .ok b
  | some _, _ => .error (fieldError .type d.name)
  | none, _ => .error (layoutError .badTag d.name)

/-- The encoding loop of `pack`, in layout order (R177). -/
def packFields (vals : Values) : Layout → Except Raise Bytes
  | [] => .ok []
  | d :: rest =>
    match lookupValue d.name vals with
    | none => .error (missingField d.name)
    | some v => do
      let b ← packField d v
      let bs ← packFields vals rest
      .ok (b ++ bs)

/-- `pack(lay, vals)` (R177), its checks in the spec's order. -/
def pack (lay : Layout) (vals : Values) : Except Raise Bytes := do
  wfLayout lay
  checkUnknown lay vals
  checkDup [] vals
  checkMissing vals lay
  packFields vals lay

/-- The value of one field, read from the front of the buffer (R176, R178). -/
def unpackField (d : FieldDesc) (buf : Bytes) : FieldValue :=
  match fieldKind d.tag with
  | some (.int w sg) => .int (decodeInt (buf.take w) sg)
  | some .fixed => .bytes (buf.take d.n.toNat)
  | _ => .bytes buf

/-- The decoding loop of `unpack` (R178): bytes are consumed from the front, in layout order. -/
def unpackFields : Layout → Bytes → Values
  | [], _ => []
  | d :: rest, buf => (d.name, unpackField d buf) :: unpackFields rest (buf.drop (fieldWidth d))

/-- `unpack(lay, buf)` (R178): the length checks come before any field is decoded. -/
def unpack (lay : Layout) (buf : Bytes) : Except Raise Values := do
  wfLayout lay
  require (decide (fixedSize lay ≤ buf.length)) (lengthError .short)
  require (greedyLayout lay || decide (buf.length ≤ fixedSize lay)) (lengthError .long)
  .ok (unpackFields lay buf)

/-- `values` reordered into the order of a layout (R273's pack-order). -/
def packOrder (lay : Layout) (vals : Values) : Values :=
  lay.filterMap fun d => (lookupValue d.name vals).map fun v => (d.name, v)

/-- GET_FIELD's lookup: the first pair with the name, or UnknownField (R182). -/
def getField (vals : Values) (fname : Name) : Except Raise FieldValue :=
  match lookupValue fname vals with
  | some v => .ok v
  | none => .error (unknownField fname)

end Sys2Proof.Machine
end

