-- ==== Sys2Proof/Machine/Registry.lean ====
section
/-! DEFINITION. The instruction registry (spec/44_registry.md R210 to R214, R221 to R233): its well-formedness, the two
lookups, the block's construction parameters (spec/00_scope.md R8, R9) and the reference registry REF. -/

namespace Sys2Proof.Machine

/-- No name occurs twice. -/
def distinctNames : List Name → Bool
  | [] => true
  | x :: xs => !xs.contains x && distinctNames xs

/-- No opcode occurs twice. -/
def distinctOps : List Byte → Bool
  | [] => true
  | x :: xs => !xs.contains x && distinctOps xs

/-- `REGISTRY` is well-formed: (a) distinct opcodes, (b) distinct names, (c) no 0x55, (d) well-formed layouts (R211). -/
def registryWf (entries : List Entry) : Bool :=
  distinctOps (entries.map Entry.op) && distinctNames (entries.map Entry.name) &&
    entries.all (fun e => e.op != statusOp) &&
    entries.all (fun e => layoutOk e.outLayout && layoutOk e.inLayout)

/-- A well-formed registry. An ill-formed one cannot be built (R8, R211, R363), so the check is carried by the value. -/
structure Registry where
  entries : List Entry
  wf : registryWf entries = true
  deriving DecidableEq, Repr

/-- The block's construction parameters, constant for the instance's life (R8, R9, R41, R75). -/
structure Params where
  registry : Registry
  crcPolicy : CrcPolicy
  deriving DecidableEq, Repr

/-- `by_name(nm)` (R212). -/
def byName (r : Registry) (nm : Name) : Except Raise Entry :=
  match r.entries.find? (fun e => e.name == nm) with
  | some e => .ok e
  | none => .error (unknownName nm)

/-- `by_op(op)` (R213). -/
def byOp (r : Registry) (op : Byte) : Except Raise Entry :=
  match r.entries.find? (fun e => e.op == op) with
  | some e => .ok e
  | none => .error (unknownOpcode op)

/-- A u8 field (R96). -/
def u8Field (nm : Name) : FieldDesc := ⟨nm, 0x01, 0⟩

/-- A u16 field (R96). -/
def u16Field (nm : Name) : FieldDesc := ⟨nm, 0x02, 0⟩

/-- A u32 field (R96). -/
def u32Field (nm : Name) : FieldDesc := ⟨nm, 0x04, 0⟩

/-- An s8 field (R96). -/
def s8Field (nm : Name) : FieldDesc := ⟨nm, 0x11, 0⟩

/-- An s16 field (R96). -/
def s16Field (nm : Name) : FieldDesc := ⟨nm, 0x12, 0⟩

/-- An s32 field (R96). -/
def s32Field (nm : Name) : FieldDesc := ⟨nm, 0x14, 0⟩

/-- A bytes(N) field (R96, R97). -/
def bytesField (nm : Name) (n : Half) : FieldDesc := ⟨nm, 0x20, n⟩

/-- A greedy field (R96). -/
def greedyField (nm : Name) : FieldDesc := ⟨nm, 0x30, 0⟩

/-- The status layout `{error:u8}` (R224 to R229). -/
def errorOnly : Layout := [u8Field "error"]

/-- The status layout `{error:u8, data:greedy}` (R223, R230, R232). -/
def errorData : Layout := [u8Field "error", greedyField "data"]

/-- The entries of the reference registry REF (R221 to R233). -/
def refEntries : List Entry :=
  [⟨0x01, "ping", [], [u8Field "error", u16Field "model_number", u8Field "firmware_version"]⟩,
   ⟨0x02, "read", [u16Field "address", u16Field "length"], errorData⟩,
   ⟨0x03, "write", [u16Field "address", greedyField "data"], errorOnly⟩,
   ⟨0x04, "reg_write", [u16Field "address", greedyField "data"], errorOnly⟩,
   ⟨0x05, "action", [], errorOnly⟩,
   ⟨0x06, "factory_reset", [u8Field "option"], errorOnly⟩,
   ⟨0x08, "reboot", [], errorOnly⟩,
   ⟨0x10, "clear", [u8Field "option", bytesField "key" 4], errorOnly⟩,
   ⟨0x82, "sync_read", [u16Field "address", u16Field "length", greedyField "ids"], errorData⟩,
   ⟨0x83, "sync_write", [u16Field "address", u16Field "length", greedyField "data"], []⟩,
   ⟨0x92, "bulk_read", [greedyField "data"], errorData⟩,
   ⟨0x93, "bulk_write", [greedyField "data"], []⟩]

/-- REF is well-formed (R221). -/
theorem refEntries_wf : registryWf refEntries = true := by decide

/-- The reference registry REF as a value of the parameter `REGISTRY` (R221). -/
def refRegistry : Registry := ⟨refEntries, refEntries_wf⟩

end Sys2Proof.Machine
end

