-- ==== Sys2Proof/Machine/State.lean ====
section
/-! DEFINITION. The machine's state (spec/10_state.md R30 to R46). `Block` is exactly the six elements of R30. `State`
puts around it what one instance is issued, delivers and was constructed with: its parameters (R8, R9), the commands
the host has issued and the block has not yet accepted (R88, R90), and the result port (R95). -/

namespace Sys2Proof.Machine

/-- The detector's state (R34). -/
inductive DetState where
  | idle
  | starting
  | inProgress
  | complete
  deriving DecidableEq, Repr

/-- The `status` register (R39). -/
structure Status where
  code : Byte
  sub : Byte
  deriving DecidableEq, Repr

/-- The architectural state of one block instance, exactly the elements of R30. -/
structure Block where
  /-- `crc_acc`, the running CRC (R33). -/
  crcAcc : Half
  /-- `det_state` (R34). -/
  detState : DetState
  /-- `det_buf` (R35). -/
  detBuf : Bytes
  /-- `last_op`, the correlation cell's opcode (R37). -/
  lastOp : Byte
  /-- `last_valid`, whether the correlation cell is set (R37). -/
  lastValid : Bool
  /-- `status`, the outcome of the most recent command (R39). -/
  status : Status
  deriving DecidableEq, Repr

/-- A frame's direction (R272). -/
inductive Direction where
  | instruction
  | status
  deriving DecidableEq, Repr

/-- A packet record (R270). It is a result, not architectural state (R41). -/
structure Packet where
  dir : Direction
  name : Name
  id : Byte
  fields : Values
  raw : Bytes
  crc : Half
  crcOk : Bool
  deriving DecidableEq, Repr

/-- The value `v` of `Ok(v)`, in the result types of R92. -/
inductive Answer where
  /-- DET_CLEAR, RESET: no value. -/
  | none
  /-- CRC16, CRC_FEED. -/
  | crc (c : Half)
  /-- STUFF: `(out, w_end)`. -/
  | stuffed (out : Bytes) (wEnd : Window)
  /-- UNSTUFF: `(out, w_end, p_end, esc)`. -/
  | unstuffed (out : Bytes) (wEnd : Window) (pEnd esc : Bool)
  /-- PACK. -/
  | bytes (out : Bytes)
  /-- UNPACK. -/
  | values (vals : Values)
  /-- GET_FIELD. -/
  | value (v : FieldValue)
  /-- DET_PUSH: `det_state` after the push. -/
  | detState (d : DetState)
  /-- ASSEMBLE: the frame and its packet record. -/
  | assembled (frame : Bytes) (packet : Packet)
  /-- DISASSEMBLE, and every wire frame. -/
  | packet (p : Packet)
  deriving DecidableEq, Repr

/-- `Err(kind, sub, info, raw)` (R95). -/
structure ErrorResult where
  kind : ErrorKind
  sub : Byte
  info : Info
  raw : Bytes
  deriving DecidableEq, Repr

/-- A command's result (R18, R95). -/
inductive Result where
  | ok (v : Answer)
  | err (e : ErrorResult)
  deriving DecidableEq, Repr

/-- One instance of the block and its ports. -/
structure State where
  /-- `REGISTRY` and `CRC_POLICY`, given at construction and written by no step (R41, R75). -/
  params : Params
  /-- The architectural state (R30). -/
  block : Block
  /-- What the host has issued and the block has not yet accepted, in host order (R71, R88). -/
  commands : List Issue
  /-- The result port: the most recent command's result, none before the first (R88, R95). No step reads it. -/
  result : Option Result
  deriving DecidableEq, Repr

/-- The reasons the machine stops with a fault: none. The block never halts (R345), and no behaviour of it faults
(spec/93_implementation_defined.md, treatments). Nothing raises one; that is safe. -/
inductive Fault where
  deriving DecidableEq, Repr

/-- The reasons a step has no meaning. -/
inductive Refusal where
  /-- Raised only by an arm of `exec` whose instruction has no meaning yet; no arm does. Safe: it stops the run. -/
  | notModelled (mnemonic : String)
  deriving DecidableEq, Repr

/-- The architectural state after power-on and after RESET (R46, R361). -/
def Block.reset : Block :=
  { crcAcc := 0x0000, detState := .idle, detBuf := [], lastOp := 0x00, lastValid := false, status := ⟨0x00, 0x00⟩ }

/-- The machine right after power-on, with the default policy STRICT (R9) and the reference registry (R221), no command
issued and no result delivered. DESIGN CHOICE (notes/assumptions/1.md), unsafe: REGISTRY has no default in the spec. -/
def State.reset : State :=
  { params := ⟨refRegistry, .strict⟩, block := Block.reset, commands := [], result := none }

end Sys2Proof.Machine
end

