-- ==== Sys2Proof/Machine/Ops.lean ====
section
/-! DEFINITION. The shared operations of the commands: the named updates of the state, success, TAKING AN ERROR (the
block's exception, spec/60_exceptions.md R331), construction (R363) and the readout port (R40). There is no return from
an error: nothing was saved and the next command is accepted at once (R333, R334). -/

namespace Sys2Proof.Machine

/-- `status <- {code, sub}` (R39). -/
def Block.withStatus (b : Block) (st : Status) : Block := { b with status := st }

/-- `crc_acc <- c` (R33). -/
def Block.withCrc (b : Block) (c : Half) : Block := { b with crcAcc := c }

/-- `det_state <- d ; det_buf <- buf` (R34, R35). -/
def Block.withDetector (b : Block) (d : DetState) (buf : Bytes) : Block :=
  { b with detState := d, detBuf := buf }

/-- `last_op <- op ; last_valid <- 1` (R215). -/
def Block.recordInstruction (b : Block) (op : Byte) : Block :=
  { b with lastOp := op, lastValid := true }

/-- The state once a command has ended: the new architectural state, and the result on the result port (R88). -/
def State.finish (s : State) (b : Block) (r : Result) : State :=
  { s with block := b, result := some r }

/-- The state once the first issue of the host has been accepted (R88). -/
def State.accept (s : State) (rest : List Issue) : State := { s with commands := rest }

/-- The status of success (R39). -/
def Status.success : Status := ⟨0x00, 0x00⟩

/-- `return v`: the command's writes, `status <- {0x00, 0x00}` and `Ok(v)` (R18, R39). -/
def State.succeed (s : State) (b : Block) (v : Answer) : Host.Outcome State Fault Refusal :=
  .next (s.finish (b.withStatus Status.success) (.ok v))

/-- Error entry, `raise Kind(sub, info)` (R331): every write the command made is discarded, `status` gets the code and
the subcause, and the result is `Err(Kind, sub, info, raw)`. Nothing else is saved or changed. -/
def State.raiseError (s : State) (raw : Bytes) (r : Raise) : Host.Outcome State Fault Refusal :=
  .next (s.finish (s.block.withStatus ⟨r.kind.code, r.sub⟩) (.err ⟨r.kind, r.sub, r.info, raw⟩))

/-- A command's end, `return` or `raise` (R18): `raw` is the byte operand of a decoding command and `[]` for the others
(R328). -/
def State.answer (s : State) (raw : Bytes) (r : Except Raise (Block × Answer)) :
    Host.Outcome State Fault Refusal :=
  match r with
  | .ok (b, v) => s.succeed b v
  | .error e => s.raiseError raw e

/-- BadCommand, what an unassigned code does (R311). -/
def badCommand (code : Byte) (s : State) : Host.Outcome State Fault Refusal :=
  s.raiseError [] (badCommandError code)

/-- Construction (R363, R360(a)): an instance in its reset state, or none when the registry is ill-formed (R8). -/
def State.construct (entries : List Entry) (policy : CrcPolicy) : Option State :=
  if h : registryWf entries = true then
    some { State.reset with params := ⟨⟨entries, h⟩, policy⟩ }
  else none

/-- The numeric encoding of `det_state` on the readout port (R34). -/
def DetState.code : DetState → BitVec 2
  | .idle => 0
  | .starting => 1
  | .inProgress => 2
  | .complete => 3

/-- The elements of R30, as the readout port names them. -/
inductive Element where
  | crcAcc | detState | detBuf | lastOp | lastValid | status
  deriving DecidableEq, Repr

/-- One element read whole through the readout port (R40); `det_buf` comes with its length. -/
inductive ReadValue where
  | half (h : Half)
  | state (code : BitVec 2)
  | buffer (b : Bytes) (length : Nat)
  | byte (b : Byte)
  | flag (b : Bool)
  | status (code sub : Byte)
  deriving DecidableEq, Repr

/-- The readout port (R40). Reading is a function of the state, so it has no side effect. -/
def State.readout (s : State) : Element → ReadValue
  | .crcAcc => .half s.block.crcAcc
  | .detState => .state s.block.detState.code
  | .detBuf => .buffer s.block.detBuf s.block.detBuf.length
  | .lastOp => .byte s.block.lastOp
  | .lastValid => .flag s.block.lastValid
  | .status => .status s.block.status.code s.block.status.sub

/-- The frame-ready level: `det_state = COMPLETE` (R337, R42). -/
def State.frameReady (s : State) : Bool := s.block.detState == .complete

/-- Whether the most recent command failed: `status.code != 0` (R42). -/
def State.errorPending (s : State) : Bool := s.block.status.code != 0x00

end Sys2Proof.Machine
end

