-- ==== Sys2Proof/Machine/CrcCommands.lean ====
section
/-! DEFINITION. The commands of the CRC16 engine: CRC16 and CRC_FEED (spec/41_crc.md R127, R128). -/

namespace Sys2Proof.Machine

/-- CRC16 (R127): computes a CRC from a given seed and loads the accumulator with it. -/
def execCrc16 (seed : Half) (data : Bytes) (s : State) : Host.Outcome State Fault Refusal :=
  s.succeed (s.block.withCrc (crc16 seed data)) (.crc (crc16 seed data))

/-- CRC_FEED (R128): continues the accumulated CRC over more bytes. -/
def execCrcFeed (data : Bytes) (s : State) : Host.Outcome State Fault Refusal :=
  s.succeed (s.block.withCrc (crc16 s.block.crcAcc data)) (.crc (crc16 s.block.crcAcc data))

end Sys2Proof.Machine
end

