-- ==== Sys2Proof/Machine/Detector.lean ====
section
/-! DEFINITION. The frame-boundary detector (spec/45_frame_detector.md R240 to R250): its transition function and the
commands DET_PUSH and DET_CLEAR. -/

namespace Sys2Proof.Machine

/-- `restart(b)`: the prefix is discarded and only the new byte is considered (R242). -/
def detRestart (b : Byte) : DetState × Bytes :=
  if b = 0xFF then (.starting, [0xFF]) else (.idle, [])

/-- The header phase, in IDLE and STARTING (R241). -/
def detHeaderPush (buf : Bytes) (b : Byte) : DetState × Bytes :=
  if (buf.length = 0 ∨ buf.length = 1) ∧ b = 0xFF then (.starting, buf ++ [b])
  else if buf.length = 2 ∧ b = 0xFD then (.inProgress, buf ++ [b])
  else detRestart b

/-- Whether a body-phase buffer has reached the declared total length (R244). -/
def detReached (buf : Bytes) : Bool :=
  decide (7 ≤ buf.length) && decide (buf.length = le16 (byteAt buf 5) (byteAt buf 6) + 7)

/-- The body phase, in IN_PROGRESS: the reserved byte's check (R243), then counting to the declared length (R244). -/
def detBodyPush (buf : Bytes) (b : Byte) : DetState × Bytes :=
  if (buf ++ [b]).length = 4 ∧ b ≠ 0x00 then detRestart b
  else if detReached (buf ++ [b]) then (.complete, buf ++ [b])
  else (.inProgress, buf ++ [b])

/-- `det_push(b)`, the whole transition function (R240 to R245). -/
def detPush (d : DetState) (buf : Bytes) (b : Byte) : Except Raise (DetState × Bytes) :=
  match d with
  | .complete => .error (detectorBusy b)
  | .idle => .ok (detHeaderPush buf b)
  | .starting => .ok (detHeaderPush buf b)
  | .inProgress => .ok (detBodyPush buf b)

/-- DET_PUSH (R248): feeds one received byte to the detector. -/
def execDetPush (b : Byte) (s : State) : Host.Outcome State Fault Refusal :=
  s.answer [] ((detPush s.block.detState s.block.detBuf b).map fun r =>
    (s.block.withDetector r.1 r.2, .detState r.1))

/-- DET_CLEAR (R249): resets the detector to IDLE. -/
def execDetClear (s : State) : Host.Outcome State Fault Refusal :=
  s.succeed (s.block.withDetector .idle []) .none

/-- DET_FEED (R103, R250): the pushes of a chunk, which stop after the first one that raises DetectorBusy; the second
component is the bytes, from that one onward, that were not consumed. -/
def detFeed : Bytes → State → State × Bytes
  | [], s => (s, [])
  | b :: bs, s =>
    match execDetPush b s with
    | .next t => if t.block.status.code = ErrorKind.detectorBusy.code then (t, b :: bs) else detFeed bs t
    | .fault _ => (s, b :: bs)
    | .refused _ => (s, b :: bs)

end Sys2Proof.Machine
end

