-- ==== Sys2Proof/Machine/FieldCommands.lean ====
section
/-! DEFINITION. The commands of the field codec: PACK, UNPACK and GET_FIELD (spec/43_field_codec.md R180 to R182). -/

namespace Sys2Proof.Machine

/-- PACK (R180). -/
def execPack (layout : Layout) (values : Values) (s : State) : Host.Outcome State Fault Refusal :=
  s.answer [] ((pack layout values).map fun out => (s.block, .bytes out))

/-- UNPACK (R181); an error carries `raw = data`. -/
def execUnpack (layout : Layout) (data : Bytes) (s : State) : Host.Outcome State Fault Refusal :=
  s.answer data ((unpack layout data).map fun res => (s.block, .values res))

/-- GET_FIELD (R182). -/
def execGetField (values : Values) (fname : Name) (s : State) : Host.Outcome State Fault Refusal :=
  s.answer [] ((getField values fname).map fun v => (s.block, .value v))

end Sys2Proof.Machine
end

