-- ==== Sys2Proof/Machine/Packet.lean ====
section
/-! DEFINITION. The packet assembler and disassembler (spec/46_packet.md R270 to R282), with the correlation cell's
reading and writing (spec/44_registry.md R215 to R220). -/

namespace Sys2Proof.Machine

/-- `"instruction_" + e.name` (R271). -/
def instructionName (e : Entry) : Name := "instruction_" ++ e.name

/-- `"status_" + e.name` (R271). -/
def statusName (e : Entry) : Name := "status_" ++ e.name

/-- What ASSEMBLE returns for an entry, an id and packed params (R273). -/
def assembledPacket (e : Entry) (id : Byte) (params : Bytes) (values : Values) : Answer :=
  .assembled (buildFrame e.op id params)
    { dir := .instruction, name := instructionName e, id := id, fields := packOrder e.outLayout values,
      raw := buildFrame e.op id params, crc := frameCrc e.op id params, crcOk := true }

/-- ASSEMBLE's checks and result, in the spec's order (R273). -/
def assemble (p : Params) (b : Block) (iname : Name) (id : Byte) (values : Values) :
    Except Raise (Block × Answer) := do
  let e ← byName p.registry iname
  require (legalId id) (idRange id)
  let params ← pack e.outLayout values
  require (decide (declaredLength e.op params ≤ 0xFFFF)) frameTooLong
  .ok (b.recordInstruction e.op, assembledPacket e id params values)

/-- `status_entry()`: the entry of the last instruction, read and not cleared (R216, R217). -/
def statusEntry (p : Params) (b : Block) : Except Raise Entry :=
  if b.lastValid then byOp p.registry b.lastOp else .error noPriorInstruction

/-- What a frame resolves to: its direction, the layout of its params and its packet name (R278, R220, R272). -/
structure Resolved where
  dir : Direction
  layout : Layout
  name : Name
  deriving DecidableEq, Repr

/-- Resolution of the INST byte (R278): 0x55 through the correlation cell, any other byte through the registry. -/
def resolve (p : Params) (b : Block) (inst : Byte) : Except Raise Resolved :=
  if inst = statusOp then (statusEntry p b).map fun e => ⟨.status, e.inLayout, statusName e⟩
  else (byOp p.registry inst).map fun e => ⟨.instruction, e.outLayout, instructionName e⟩

/-- A PayloadLength error of the field decode is raised as MalformedFrame PAYLOAD (R279). -/
def payloadError (r : Raise) : Raise := if r.kind = .payloadLength then malformed .payload else r

/-- The field decode of a frame's params (R279). -/
def decodeFields (lay : Layout) (params : Bytes) : Except Raise Values :=
  (unpack lay params).mapError payloadError

/-- The correlation update, once every check has passed (R280): an instruction frame primes the cell, a status frame
leaves it. -/
def correlate (b : Block) (dir : Direction) (inst : Byte) : Block :=
  match dir with
  | .instruction => b.recordInstruction inst
  | .status => b

/-- DISASSEMBLE's checks and result, in the spec's order (R281). -/
def disassemble (p : Params) (b : Block) (f : Bytes) : Except Raise (Block × Answer) := do
  let o ← openFrame p.crcPolicy f
  let r ← resolve p b o.inst
  let fields ← decodeFields r.layout o.params
  .ok (correlate b r.dir o.inst,
    .packet { dir := r.dir, name := r.name, id := o.id, fields := fields, raw := f, crc := o.crc, crcOk := o.crcOk })

/-- A frame handed to the disassembler: its result, or its error with `raw = frame` (R281, R282). -/
def disassembleFrame (f : Bytes) (s : State) : Host.Outcome State Fault Refusal :=
  s.answer f (disassemble s.params s.block f)

/-- ASSEMBLE (R273): builds an instruction frame and records its opcode. -/
def execAssemble (iname : Name) (id : Byte) (values : Values) (s : State) :
    Host.Outcome State Fault Refusal :=
  s.answer [] (assemble s.params s.block iname id values)

/-- DISASSEMBLE (R281): parses one complete frame into a packet record. -/
def execDisassemble (frame : Bytes) (s : State) : Host.Outcome State Fault Refusal :=
  disassembleFrame frame s

end Sys2Proof.Machine
end

