-- ==== Sys2Proof/Machine/StuffingCommands.lean ====
section
/-! DEFINITION. The commands of the byte-stuffing codec: STUFF and UNSTUFF (spec/42_stuffing.md R148, R149). -/

namespace Sys2Proof.Machine

/-- STUFF's result from its operands (R148). -/
def stuffAnswer (w0 : BitVec 2) (data : Bytes) : Except Raise Answer := do
  let w ← windowOperand w0
  .ok (.stuffed (stuff w data).1 (stuff w data).2)

/-- UNSTUFF's result from its operands (R149). -/
def unstuffAnswer (w0 : BitVec 2) (p0 : Bool) (data : Bytes) : Except Raise Answer := do
  let w ← windowOperand w0
  .ok (.unstuffed (unstuff w p0 data).out (unstuff w p0 data).wEnd (unstuff w p0 data).pEnd (unstuff w p0 data).esc)

/-- STUFF (R148). The window is an operand and a result; no architectural state but `status` is touched. -/
def execStuff (w0 : BitVec 2) (data : Bytes) (s : State) : Host.Outcome State Fault Refusal :=
  s.answer [] ((stuffAnswer w0 data).map fun v => (s.block, v))

/-- UNSTUFF (R149). A missing escape is reported in the result, not raised. -/
def execUnstuff (w0 : BitVec 2) (p0 : Bool) (data : Bytes) (s : State) :
    Host.Outcome State Fault Refusal :=
  s.answer [] ((unstuffAnswer w0 p0 data).map fun v => (s.block, v))

end Sys2Proof.Machine
end

