-- ==== Sys2Proof/Machine/System.lean ====
section
/-! DEFINITION. The system command RESET (spec/47_system.md R310). -/

namespace Sys2Proof.Machine

/-- RESET (R310): every state element gets its reset value; REGISTRY and CRC_POLICY are unchanged. -/
def execReset (s : State) : Host.Outcome State Fault Refusal :=
  s.succeed { crcAcc := 0x0000, detState := .idle, detBuf := [], lastOp := 0x00, lastValid := false,
              status := Status.success } .none

end Sys2Proof.Machine
end

