-- ==== Sys2Proof/Machine/WireFrames.lean ====
section
/-! DEFINITION. The WIRE rows of the opcode table (spec/30_encoding.md R85, R99; spec/44_registry.md R214, R221 to R233).
An instruction or status frame acts on the block when the packet disassembler receives it (R282, R278 to R280): it is
resolved by its INST byte, its params are decoded under the resolved layout, an instruction frame primes the
correlation cell (R218) and a status frame is named through it (R216). A frame is resolved against the instance's own
REGISTRY, so in an instance whose REGISTRY is not REF the same bytes may decode otherwise, as R278 says. -/

namespace Sys2Proof.Machine

/-- The receipt of the frame with an opcode, an id and unstuffed params (R80, R281). -/
def receive (op id : Byte) (params : Bytes) (s : State) : Host.Outcome State Fault Refusal :=
  disassembleFrame (buildFrame op id params) s

/-- status (R214, R216): resolved through the correlation cell. -/
def execStatus (id : Byte) (params : Bytes) (s : State) : Host.Outcome State Fault Refusal :=
  receive 0x55 id params s

/-- ping (R222). -/
def execPing (id : Byte) (s : State) : Host.Outcome State Fault Refusal :=
  receive 0x01 id [] s

/-- read (R223). -/
def execRead (id : Byte) (address length : Half) (s : State) : Host.Outcome State Fault Refusal :=
  receive 0x02 id (readParams address length) s

/-- write (R224). -/
def execWrite (id : Byte) (address : Half) (data : Bytes) (s : State) : Host.Outcome State Fault Refusal :=
  receive 0x03 id (writeParams address data) s

/-- reg_write (R225). -/
def execRegWrite (id : Byte) (address : Half) (data : Bytes) (s : State) :
    Host.Outcome State Fault Refusal :=
  receive 0x04 id (writeParams address data) s

/-- action (R226). -/
def execAction (id : Byte) (s : State) : Host.Outcome State Fault Refusal :=
  receive 0x05 id [] s

/-- factory_reset (R227): the block does not interpret `option`. -/
def execFactoryReset (id : Byte) (option : Byte) (s : State) : Host.Outcome State Fault Refusal :=
  receive 0x06 id [option] s

/-- reboot (R228). -/
def execReboot (id : Byte) (s : State) : Host.Outcome State Fault Refusal :=
  receive 0x08 id [] s

/-- clear (R229): the block does not check the key bytes. -/
def execClear (id : Byte) (option : Byte) (key : Bytes) (s : State) : Host.Outcome State Fault Refusal :=
  receive 0x10 id (clearParams option key) s

/-- sync_read (R230). -/
def execSyncRead (id : Byte) (address length : Half) (ids : Bytes) (s : State) :
    Host.Outcome State Fault Refusal :=
  receive 0x82 id (syncParams address length ids) s

/-- sync_write (R231): the block does not split `data`. -/
def execSyncWrite (id : Byte) (address length : Half) (data : Bytes) (s : State) :
    Host.Outcome State Fault Refusal :=
  receive 0x83 id (syncParams address length data) s

/-- bulk_read (R232). -/
def execBulkRead (id : Byte) (data : Bytes) (s : State) : Host.Outcome State Fault Refusal :=
  receive 0x92 id data s

/-- bulk_write (R233). -/
def execBulkWrite (id : Byte) (data : Bytes) (s : State) : Host.Outcome State Fault Refusal :=
  receive 0x93 id data s

end Sys2Proof.Machine
end

