-- ==== Sys2Proof/Machine/Dispatch.lean ====
section
/-! DEFINITION. The dispatch from an instruction to its meaning, one arm per constructor. -/

namespace Sys2Proof.Machine

def exec (i : Instr) (s : State) : Host.Outcome State Fault Refusal :=
  match i with
  | .crc16 seed data => Sys2Proof.Machine.execCrc16 seed data s
  | .crcFeed data => Sys2Proof.Machine.execCrcFeed data s
  | .stuff w0 data => Sys2Proof.Machine.execStuff w0 data s
  | .unstuff w0 p0 data => Sys2Proof.Machine.execUnstuff w0 p0 data s
  | .pack layout values => Sys2Proof.Machine.execPack layout values s
  | .unpack layout data => Sys2Proof.Machine.execUnpack layout data s
  | .getField values fname => Sys2Proof.Machine.execGetField values fname s
  | .detPush b => Sys2Proof.Machine.execDetPush b s
  | .detClear => Sys2Proof.Machine.execDetClear s
  | .assemble iname id values => Sys2Proof.Machine.execAssemble iname id values s
  | .disassemble frame => Sys2Proof.Machine.execDisassemble frame s
  | .reset => Sys2Proof.Machine.execReset s
  | .status id params => Sys2Proof.Machine.execStatus id params s
  | .ping id => Sys2Proof.Machine.execPing id s
  | .read id address length => Sys2Proof.Machine.execRead id address length s
  | .write id address data => Sys2Proof.Machine.execWrite id address data s
  | .regWrite id address data => Sys2Proof.Machine.execRegWrite id address data s
  | .action id => Sys2Proof.Machine.execAction id s
  | .factoryReset id option => Sys2Proof.Machine.execFactoryReset id option s
  | .reboot id => Sys2Proof.Machine.execReboot id s
  | .clear id option key => Sys2Proof.Machine.execClear id option key s
  | .syncRead id address length ids => Sys2Proof.Machine.execSyncRead id address length ids s
  | .syncWrite id address length data => Sys2Proof.Machine.execSyncWrite id address length data s
  | .bulkRead id data => Sys2Proof.Machine.execBulkRead id data s
  | .bulkWrite id data => Sys2Proof.Machine.execBulkWrite id data s

end Sys2Proof.Machine
end

