-- ==== Sys2Proof/Machine/Step.lean ====
section
/-! DEFINITION. One step of the block (spec/30_encoding.md R88, spec/20_memory.md R71): the first command the host has
issued is accepted, executed to completion and answered. -/

namespace Sys2Proof.Machine

/-- One step. With nothing issued the block waits (R362), and its state is unchanged. An unassigned code raises
BadCommand (R311). -/
def step (s : State) : Host.Outcome State Fault Refusal :=
  match s.commands with
  | [] => .next s
  | issue :: rest =>
    match decode issue with
    | .ok i => exec i (s.accept rest)
    | .error (.unassignedCode code) => badCommand code (s.accept rest)

/-- The state with one instruction of the opcode table, its operands zero, issued first. -/
def State.withFetchWord (s : State) (_nbits w : Nat) : State :=
  { s with commands := tableIssue (BitVec.ofNat 8 w) :: s.commands }

end Sys2Proof.Machine
end

