-- ==== Sys2Proof/Machine/Instances.lean ====
section
/-! DEFINITION. Several instances, one per connection (spec/60_exceptions.md R342, spec/20_memory.md R72): each has its
own parameters, architectural state and ports, and a step of one touches no other. -/

namespace Sys2Proof.Machine

/-- One step of the instance at position `k`; a position without an instance leaves the system as it is. -/
def stepInstance (k : Nat) (sys : List State) : Host.Outcome (List State) Fault Refusal :=
  match sys[k]? with
  | none => .next sys
  | some s =>
    match step s with
    | .next t => .next (sys.set k t)
    | .fault r => .fault r
    | .refused r => .refused r

/-- The steps of several instances in the order a schedule names them. -/
def runSchedule : List Nat → List State → Host.Outcome (List State) Fault Refusal
  | [], sys => .next sys
  | k :: rest, sys =>
    match stepInstance k sys with
    | .next t => runSchedule rest t
    | .fault r => .fault r
    | .refused r => .refused r

end Sys2Proof.Machine
end

