-- ==== Sys2Proof/Safety.lean ====
section
/-! DEFINITION. The terms statements are made in: what a running step is (spec/60_exceptions.md R345), the states a
command's success and error leave, the invariants of the detector (spec/10_state.md R36) and of the correlation cell
(spec/44_registry.md R216), the legal operands of the field codec, and the tables of what a command writes (R47) and
raises (R326). -/

namespace Sys2Proof.Machine

/-- The step goes on: neither a fault nor a refusal. -/
def Running (o : Host.Outcome State Fault Refusal) : Prop := ∃ t, o = .next t

/-- The state a successful command leaves: its architectural writes `b`, `status = {0x00, 0x00}` and `Ok(v)` (R18, R39). -/
def State.afterOk (s : State) (b : Block) (v : Answer) : State :=
  { s with block := { b with status := ⟨0x00, 0x00⟩ }, result := some (.ok v) }

/-- The state a failed command leaves: only `status` and the result change (R331). -/
def State.afterError (s : State) (raw : Bytes) (r : Raise) : State :=
  { s with block := { s.block with status := ⟨r.kind.code, r.sub⟩ },
           result := some (.err ⟨r.kind, r.sub, r.info, raw⟩) }

/-- `L(b)` of R36: the declared length in a buffer. -/
def declared (buf : Bytes) : Nat := le16 (byteAt buf 5) (byteAt buf 6)

/-- The detector invariants of R36, one clause per state. -/
def Block.DetInv (b : Block) : Prop :=
  match b.detState with
  | .idle => b.detBuf = []
  | .starting => b.detBuf = [0xFF] ∨ b.detBuf = [0xFF, 0xFF]
  | .inProgress =>
    3 ≤ b.detBuf.length ∧ slice b.detBuf 0 3 = [0xFF, 0xFF, 0xFD] ∧
    (4 ≤ b.detBuf.length → byteAt b.detBuf 3 = 0x00) ∧
    (7 ≤ b.detBuf.length → b.detBuf.length < declared b.detBuf + 7)
  | .complete =>
    7 ≤ b.detBuf.length ∧ slice b.detBuf 0 4 = [0xFF, 0xFF, 0xFD, 0x00] ∧
    b.detBuf.length = declared b.detBuf + 7

/-- The correlation invariant of R216: a set cell holds an opcode of the registry. -/
def State.CorrInv (s : State) : Prop :=
  s.block.lastValid = true → ∃ e ∈ s.params.registry.entries, e.op = s.block.lastOp

/-- A buffer that holds exactly one whole frame by the detector's measure (R251(d)). -/
def WholeFrame (f : Bytes) : Prop :=
  slice f 0 4 = [0xFF, 0xFF, 0xFD, 0x00] ∧ f.length = declared f + 7

/-- The legal values of a descriptor, the table of R174 with the kinds of R173. -/
def LegalValue (d : FieldDesc) : FieldValue → Prop
  | .int x =>
    (d.tag = 0x01 ∧ 0 ≤ x ∧ x ≤ 255) ∨ (d.tag = 0x02 ∧ 0 ≤ x ∧ x ≤ 65535) ∨
    (d.tag = 0x04 ∧ 0 ≤ x ∧ x ≤ 4294967295) ∨ (d.tag = 0x11 ∧ -128 ≤ x ∧ x ≤ 127) ∨
    (d.tag = 0x12 ∧ -32768 ≤ x ∧ x ≤ 32767) ∨ (d.tag = 0x14 ∧ -2147483648 ≤ x ∧ x ≤ 2147483647)
  | .bytes b => (d.tag = 0x20 ∧ b.length = d.n.toNat) ∨ d.tag = 0x30

/-- Operands PACK accepts (R177): a well-formed layout, only its names, each at most once, each with a legal value. -/
structure PackLegal (lay : Layout) (vals : Values) : Prop where
  layout : layoutOk lay = true
  known : ∀ p ∈ vals, p.1 ∈ lay.map FieldDesc.name
  once : (vals.map Prod.fst).Nodup
  given : ∀ d ∈ lay, ∃ v, (d.name, v) ∈ vals ∧ LegalValue d v

/-- The bytes of one legal value (R175, R177). -/
def fieldBytes (d : FieldDesc) : FieldValue → Bytes
  | .int x => encodeInt x (fieldWidth d)
  | .bytes b => b

/-- The value a list of pairs gives a name, none when it has no such pair. -/
def givenValue (vals : Values) (nm : Name) : Option FieldValue :=
  (vals.find? fun p => p.1 == nm).map Prod.snd

/-- The fields of a layout laid end to end, in layout order (R177). -/
def encodedFields (lay : Layout) (vals : Values) : Bytes :=
  lay.flatMap fun d => ((givenValue vals d.name).map (fieldBytes d)).getD []

/-- `values` in layout order (R273, R179). -/
def inLayoutOrder (lay : Layout) (vals : Values) : Values :=
  lay.filterMap fun d => (givenValue vals d.name).map fun v => (d.name, v)

/-- The length of the value of the greedy field, if the layout has one (R172, R179(c)). -/
def greedyLength (lay : Layout) (vals : Values) : Nat :=
  match lay.getLast? with
  | some d =>
    match isGreedy d, givenValue vals d.name with
    | true, some (.bytes b) => b.length
    | _, _ => 0
  | none => 0

/-- A layout and a buffer length UNPACK accepts (R178). -/
def UnpackFits (lay : Layout) (n : Nat) : Prop :=
  layoutOk lay = true ∧ fixedSize lay ≤ n ∧ (greedyLayout lay = false → n = fixedSize lay)

/-- The frame of an opcode, an id and the bytes between INST and the CRC field, offset by offset (R80, R81, R82). -/
def frameOf (op id : Byte) (stuffedParams : Bytes) : Bytes :=
  let body := [0xFF, 0xFF, 0xFD, 0x00, id, BitVec.ofNat 8 (stuffedParams.length + 3),
    BitVec.ofNat 8 ((stuffedParams.length + 3) / 256), op] ++ stuffedParams
  body ++ [(crc16 0 body).setWidth 8, (crc16 0 body >>> 8).setWidth 8]

/-- The stuffed PARAM bytes of an opcode's params: the stuffing scan starts at INST (R83, R144). -/
def stuffedParams (op : Byte) (params : Bytes) : Bytes :=
  (stuff (primedWindow op) params).1

/-- The low byte of a u16 (R62). -/
def lowByte (x : Half) : Byte := x.setWidth 8

/-- The high byte of a u16 (R62). -/
def highByte (x : Half) : Byte := (x >>> 8).setWidth 8

/-- A legal packet id: 0 to 252, or 0xFE for broadcast (R84). -/
def LegalPacketId (id : Byte) : Prop := id.toNat ≤ 252 ∨ id = 0xFE

/-- The subcause `pack` gives a value that is not legal for its descriptor: TYPE (3) before RANGE (1) or LENGTH (2)
(R177, R324). -/
def valueFault (d : FieldDesc) : FieldValue → Byte
  | .int _ => if d.tag = 0x20 ∨ d.tag = 0x30 then 3 else 1
  | .bytes _ => if d.tag = 0x20 then 2 else 3

/-- The CRC field a frame carries (R270). -/
def carriedCrc (f : Bytes) : Half :=
  BitVec.ofNat 16 (le16 (byteAt f (f.length - 2)) (byteAt f (f.length - 1)))

/-- The CRC recomputed over a frame (R276). -/
def recomputedCrc (f : Bytes) : Half := crc16 0 (f.take (f.length - 2))

/-- What unstuffing a frame's PARAM span gives (R277). -/
def unstuffedParams (f : Bytes) : Unstuffed :=
  unstuff (primedWindow (byteAt f 7)) false (slice f 8 (f.length - 2))

/-- A frame that passes the checks R275 to R277 under a policy. -/
structure AcceptableFrame (policy : CrcPolicy) (f : Bytes) : Prop where
  long : 10 ≤ f.length
  header : slice f 0 4 = [0xFF, 0xFF, 0xFD, 0x00]
  length : 3 ≤ declared f ∧ f.length = declared f + 7
  id : LegalPacketId (byteAt f 4)
  crc : policy = .strict → carriedCrc f = recomputedCrc f
  escape : (unstuffedParams f).esc = false ∧ (unstuffedParams f).pEnd = false

/-- The packet record of an instruction frame whose CRC matches (R270, R271). -/
def instructionPacket (name : Name) (id : Byte) (fields : Values) (f : Bytes) : Packet :=
  { dir := .instruction, name := "instruction_" ++ name, id := id, fields := fields, raw := f,
    crc := crc16 0 (f.take (f.length - 2)), crcOk := true }

/-- The state after an instruction frame of an entry has been received (R280, R281). -/
def State.received (s : State) (op id : Byte) (name : Name) (fields : Values) (params : Bytes) : State :=
  s.afterOk { s.block with lastOp := op, lastValid := true }
    (.packet (instructionPacket name id fields (frameOf op id (stuffedParams op params))))

/-- The commands that write `crc_acc` (R47). -/
def writesCrc : Instr → Bool
  | .crc16 _ _ | .crcFeed _ | .reset => true
  | .stuff _ _ | .unstuff _ _ _ | .pack _ _ | .unpack _ _ | .getField _ _ | .detPush _ | .detClear
  | .assemble _ _ _ | .disassemble _ | .status _ _ | .ping _ | .read _ _ _ | .write _ _ _ | .regWrite _ _ _
  | .action _ | .factoryReset _ _ | .reboot _ | .clear _ _ _ | .syncRead _ _ _ _ | .syncWrite _ _ _ _
  | .bulkRead _ _ | .bulkWrite _ _ => false

/-- The commands that write `det_state` and `det_buf` (R47). -/
def writesDetector : Instr → Bool
  | .detPush _ | .detClear | .reset => true
  | .crc16 _ _ | .crcFeed _ | .stuff _ _ | .unstuff _ _ _ | .pack _ _ | .unpack _ _ | .getField _ _
  | .assemble _ _ _ | .disassemble _ | .status _ _ | .ping _ | .read _ _ _ | .write _ _ _ | .regWrite _ _ _
  | .action _ | .factoryReset _ _ | .reboot _ | .clear _ _ _ | .syncRead _ _ _ _ | .syncWrite _ _ _ _
  | .bulkRead _ _ | .bulkWrite _ _ => false

/-- The instructions that may write `last_op` and `last_valid` (R47): ASSEMBLE, DISASSEMBLE and with it every
instruction frame, and RESET. A status frame never does (R217). -/
def writesCell : Instr → Bool
  | .assemble _ _ _ | .disassemble _ | .reset | .ping _ | .read _ _ _ | .write _ _ _ | .regWrite _ _ _
  | .action _ | .factoryReset _ _ | .reboot _ | .clear _ _ _ | .syncRead _ _ _ _ | .syncWrite _ _ _ _
  | .bulkRead _ _ | .bulkWrite _ _ => true
  | .crc16 _ _ | .crcFeed _ | .stuff _ _ | .unstuff _ _ _ | .pack _ _ | .unpack _ _ | .getField _ _
  | .detPush _ | .detClear | .status _ _ => false

/-- The frame a wire instruction is, none for a command. -/
def wireFrame (i : Instr) : Option Bytes :=
  match encode i with
  | .frame f => some f
  | .command _ => none

/-- The error kinds an instruction can raise (R326); a wire frame raises what DISASSEMBLE raises. -/
def raisers : Instr → List ErrorKind
  | .crc16 _ _ | .crcFeed _ | .detClear | .reset => []
  | .stuff _ _ | .unstuff _ _ _ => [.badOperand]
  | .pack _ _ => [.layoutError, .unknownField, .fieldValue, .missingField]
  | .unpack _ _ => [.layoutError, .payloadLength]
  | .getField _ _ => [.unknownField]
  | .detPush _ => [.detectorBusy]
  | .assemble _ _ _ => [.unknownInstruction, .idRange, .unknownField, .fieldValue, .missingField, .frameTooLong]
  | .disassemble _ | .status _ _ | .ping _ | .read _ _ _ | .write _ _ _ | .regWrite _ _ _ | .action _
  | .factoryReset _ _ | .reboot _ | .clear _ _ _ | .syncRead _ _ _ _ | .syncWrite _ _ _ _ | .bulkRead _ _
  | .bulkWrite _ _ => [.malformedFrame, .noPriorInstruction, .unknownInstruction]

/-- The raw bytes an error of an instruction carries: the byte operand of a decoding command, else none (R328). -/
def rawOperand : Instr → Bytes
  | .unpack _ data => data
  | .disassemble frame => frame
  | i => (wireFrame i).getD []

end Sys2Proof.Machine
end

