-- ==== Sys2Proof/Certificates/Slice0/Obligations.lean ====
section
/-! DEFINITION. The statements for the provers. Each docstring names the rule of spec/ it formalises. -/

open Sys2Proof Sys2Proof.Machine

/-- R88, R71, R362: a step accepts the first issue and runs the instruction it decodes to on the state without that
issue; with nothing issued the block waits, its state unchanged. -/
def Obligations.StepRunsDecodedInstruction : Prop :=
  ∀ s : State,
    (∀ issue rest i, s.commands = issue :: rest → decode issue = .ok i →
      step s = exec i { s with commands := rest }) ∧
    (s.commands = [] → step s = .next s)

/-- R92, R99: words written out from the spec's encodings decode to the instructions they stand for: command records by
their codes, and the frames of V40, V42, V46, V51 and V1 byte for byte. -/
def Obligations.DecodedWordsMatchTable : Prop :=
  decode (.command { code := 0x01, seed := 0x1234, data := [0x01] }) = .ok (.crc16 0x1234 [0x01]) ∧
  decode (.command { code := 0x11, w0 := 2, p0 := true, data := [0xFD] }) = .ok (.unstuff 2 true [0xFD]) ∧
  decode (.command { code := 0x30, b := 0xFF }) = .ok (.detPush 0xFF) ∧
  decode (.command { code := 0xF0 }) = .ok .reset ∧
  decode (.frame [0xFF, 0xFF, 0xFD, 0x00, 0x01, 0x03, 0x00, 0x01, 0x19, 0x4E]) = .ok (.ping 0x01) ∧
  decode (.frame [0xFF, 0xFF, 0xFD, 0x00, 0x01, 0x07, 0x00, 0x02, 0x84, 0x00, 0x04, 0x00, 0x1D, 0x15])
    = .ok (.read 0x01 132 4) ∧
  decode (.frame [0xFF, 0xFF, 0xFD, 0x00, 0x01, 0x08, 0x00, 0x03, 0xFF, 0xFF, 0xFD, 0xFD, 0x00, 0xC4, 0x8E])
    = .ok (.write 0x01 0xFFFF [0xFD, 0x00]) ∧
  decode (.frame [0xFF, 0xFF, 0xFD, 0x00, 0x01, 0x08, 0x00, 0x10, 0x01, 0x44, 0x58, 0x4C, 0x22, 0xB1, 0xDC])
    = .ok (.clear 0x01 0x01 [0x44, 0x58, 0x4C, 0x22]) ∧
  decode (.frame [0xFF, 0xFF, 0xFD, 0x00, 0x01, 0x07, 0x00, 0x55, 0x00, 0x06, 0x04, 0x26, 0x65, 0x5D])
    = .ok (.status 0x01 [0x00, 0x06, 0x04, 0x26])

/-- R90, R92, R80, R99: decode and encode agree on every well-formed instruction. -/
def Obligations.DecodeInvertsEncode : Prop :=
  ∀ i : Instr, i.wellFormed = true → decode (encode i) = .ok i

/-- R80 to R83, R99: a frame that decodes to a wire instruction is the one encoding of that instruction, and the
instruction is well-formed: no byte of a frame is ignored and no two frames stand for one instruction. -/
def Obligations.EncodeInvertsDecodeFrame : Prop :=
  ∀ (f : Bytes) (i : Instr), decodeFrame f = .ok i → encode i = .frame f ∧ i.wellFormed = true

/-- The model's choice, notes/assumptions/2.md: a wire instruction, well-formed or not, does exactly what DISASSEMBLE
does with its frame, and a frame issued as wire bytes does what the DISASSEMBLE command with that frame does (R281,
R282). -/
def Obligations.FrameIssueIsDisassembleCommand : Prop :=
  (∀ (i : Instr) (f : Bytes) (s : State), encode i = .frame f → exec i s = exec (.disassemble f) s) ∧
  ∀ (s : State) (f : Bytes) (rest : List Issue),
    step { s with commands := .frame f :: rest } =
      step { s with commands := .command { code := 0x41, frame := f } :: rest }

/-- R311: an unassigned code raises BadCommand with the code, and `w0 = 3` raises BadOperand with the operand's value in
STUFF and UNSTUFF; only `status` changes. -/
def Obligations.IllegalCodesAndOperandsRaise : Prop :=
  (∀ (s : State) (c : Command) (rest : List Issue), s.commands = .command c :: rest →
    c.code ∉ ([0x01, 0x02, 0x10, 0x11, 0x20, 0x21, 0x22, 0x30, 0x31, 0x40, 0x41, 0xF0] : List Byte) →
    step s = .next (({ s with commands := rest } : State).afterError [] ⟨.badCommand, 0, .byte c.code⟩)) ∧
  (∀ (s : State) (data : Bytes),
    exec (.stuff 3 data) s = .next (s.afterError [] ⟨.badOperand, 0, .byte 0x03⟩)) ∧
  (∀ (s : State) (p0 : Bool) (data : Bytes),
    exec (.unstuff 3 p0 data) s = .next (s.afterError [] ⟨.badOperand, 0, .byte 0x03⟩))

/-- R345: no command, error or input stops the block: every step answers a next state, whatever the state. -/
def Obligations.BlockNeverHalts : Prop :=
  ∀ s : State, Running (step s)

/-- R331, R328: when a command fails, its error is reported in `status` and on the result port with the raw bytes R328
gives it, and nothing else changes. -/
def Obligations.ErrorsChangeOnlyStatus : Prop :=
  (∀ (i : Instr) (s t : State) (e : ErrorResult), exec i s = .next t → t.result = some (.err e) →
    t = s.afterError (rawOperand i) ⟨e.kind, e.sub, e.info⟩ ∧ e.raw = rawOperand i) ∧
  (∀ (code : Byte) (s : State), badCommand code s = .next (s.afterError [] ⟨.badCommand, 0, .byte code⟩))

/-- R39: every command writes `status` and delivers a result: {0x00, 0x00} on success, {code, sub} on error. -/
def Obligations.StatusReportsOutcome : Prop :=
  ∀ (i : Instr) (s t : State), exec i s = .next t →
    (∃ v, t.result = some (.ok v) ∧ t.block.status = ⟨0x00, 0x00⟩) ∨
    (∃ e, t.result = some (.err e) ∧ t.block.status = ⟨e.kind.code, e.sub⟩ ∧ e.kind.code ≠ 0x00)

/-- R47: which instructions write which elements; the others leave them, and the parameters and the commands still to
come, unchanged. -/
def Obligations.OnlyListedElementsAreWritten : Prop :=
  ∀ (i : Instr) (s t : State), exec i s = .next t →
    (writesCrc i = false → t.block.crcAcc = s.block.crcAcc) ∧
    (writesDetector i = false → t.block.detState = s.block.detState ∧ t.block.detBuf = s.block.detBuf) ∧
    (writesCell i = false → t.block.lastOp = s.block.lastOp ∧ t.block.lastValid = s.block.lastValid) ∧
    t.params = s.params ∧ t.commands = s.commands

/-- R326: the error kinds each instruction can raise; the registry's layouts being well-formed, ASSEMBLE and
DISASSEMBLE never raise LayoutError. -/
def Obligations.OnlyListedErrorsAreRaised : Prop :=
  (∀ (i : Instr) (s t : State) (e : ErrorResult), exec i s = .next t → t.result = some (.err e) →
    e.kind ∈ raisers i) ∧
  (∀ (code : Byte) (s t : State) (e : ErrorResult), badCommand code s = .next t →
    t.result = some (.err e) → e.kind = .badCommand)

/-- R320, R346: the codes of the error kinds, no two of which share one. -/
def Obligations.ErrorCodesAreDistinct : Prop :=
  ([.malformedFrame, .unknownInstruction, .unknownField, .notWritable, .sizeMismatch, .noPriorInstruction,
    .receiveTimeout, .responseTimeout, .badCommand, .badOperand, .layoutError, .missingField, .fieldValue,
    .payloadLength, .idRange, .frameTooLong, .detectorBusy] : List ErrorKind).map ErrorKind.code =
    [0x01, 0x02, 0x03, 0x04, 0x05, 0x06, 0x07, 0x08, 0x10, 0x11, 0x12, 0x13, 0x14, 0x15, 0x16, 0x17, 0x18] ∧
  ∀ k k' : ErrorKind, k.code = k'.code → k = k'

/-- R41, R42: what a command does depends on its operands, the parameters and the architectural state other than
`status` alone: neither `status`, nor the result port, nor the commands still to come select anything. -/
def Obligations.ResultsDependOnlyOnBlock : Prop :=
  ∀ (i : Instr) (s s' t t' : State), s.params = s'.params →
    { s.block with status := s'.block.status } = s'.block →
    exec i s = .next t → exec i s' = .next t' → t.block = t'.block ∧ t.result = t'.result

/-- R70: CRC16, STUFF, UNSTUFF, PACK, UNPACK, GET_FIELD, DET_CLEAR and RESET are idempotent, and so is ASSEMBLE's
result. -/
def Obligations.IdempotentCommandsRepeat : Prop :=
  (∀ (i : Instr) (s t : State),
    (match i with
      | .crc16 _ _ | .stuff _ _ | .unstuff _ _ _ | .pack _ _ | .unpack _ _ | .getField _ _ | .detClear | .reset => True
      | _ => False) →
    exec i s = .next t → exec i t = .next t) ∧
  (∀ (iname : Name) (id : Byte) (values : Values) (s t u : State),
    exec (.assemble iname id values) s = .next t → exec (.assemble iname id values) t = .next u →
    u.result = t.result)

/-- R72: whatever order the steps of several instances are interleaved in, each instance ends where its own steps, run
alone, take it. -/
def Obligations.InstancesDoNotInteract : Prop :=
  ∀ (schedule : List Nat) (sys sys' : List State), runSchedule schedule sys = .next sys' →
    ∀ (k : Nat) (s : State), sys[k]? = some s →
      ∃ t, Host.Core.run Sys2Proof.core (schedule.count k) s = .next t ∧ sys'[k]? = some t

/-- R310: RESET, code 0xF0, sets every state element to its reset value and leaves the parameters unchanged. -/
def Obligations.ResetCommandRestoresElements : Prop :=
  decode (.command { code := 0xF0 }) = .ok .reset ∧
  ∀ s : State, exec .reset s =
    .next { s with
      block := { crcAcc := 0x0000, detState := .idle, detBuf := [], lastOp := 0x00, lastValid := false,
                 status := ⟨0x00, 0x00⟩ },
      result := some (.ok .none) }

/-- R46, R361: the architectural state after power-on, of the model's reset state and of any instance that can be
constructed, and after RESET. The parameters of the model's reset state are its choice, notes/assumptions/1.md, and
nothing is said of them here. -/
def Obligations.PowerOnElementValues : Prop :=
  let inReset := fun (b : Block) =>
    b.crcAcc = 0x0000 ∧ b.detState = .idle ∧ b.detBuf = [] ∧ b.lastOp = 0x00 ∧ b.lastValid = false ∧
      b.status = ⟨0x00, 0x00⟩
  inReset State.reset.block ∧
  (∀ (entries : List Entry) (policy : CrcPolicy) (s : State), State.construct entries policy = some s →
    inReset s.block) ∧
  ∀ s t : State, exec .reset s = .next t → inReset t.block

/-- R36, R216: the model's reset state, and any instance that can be constructed, meet the detector invariant and the
correlation invariant. -/
def Obligations.PowerOnMeetsInvariants : Prop :=
  (State.reset.block.DetInv ∧ State.reset.CorrInv) ∧
  ∀ (entries : List Entry) (policy : CrcPolicy) (s : State), State.construct entries policy = some s →
    s.block.DetInv ∧ s.CorrInv

/-- R36: every step keeps the detector invariant. -/
def Obligations.DetectorInvariantKept : Prop :=
  ∀ s t : State, s.block.DetInv → step s = .next t → t.block.DetInv

/-- R216: every step keeps the correlation invariant, so `by_op(last_op)` never raises for a set cell. -/
def Obligations.CorrelationInvariantKept : Prop :=
  ∀ s t : State, s.CorrInv → step s = .next t → t.CorrInv

/-- R247: the detector's buffer never holds more than 65542 bytes, after any number of steps from a state that meets
the invariant of R36. -/
def Obligations.BufferStaysWithinCapacity : Prop :=
  ∀ (k : Nat) (s t : State), s.block.DetInv → Host.Core.run Sys2Proof.core k s = .next t →
    t.block.detBuf.length ≤ 65542

/-- R215: the correlation cell is written by a successful ASSEMBLE with its entry's opcode, by a successful disassembly of
an instruction frame with that frame's opcode, which is a registry entry's, and by RESET, which clears it; in every
other case, a failure or a status frame among them, it stays as it was. -/
def Obligations.CellWrittenExactlyOnSuccess : Prop :=
  ∀ (i : Instr) (s t : State), exec i s = .next t →
    (∀ f p, t.result = some (.ok (.assembled f p)) →
      ∃ iname id values e, i = .assemble iname id values ∧ e ∈ s.params.registry.entries ∧ e.name = iname ∧
        t.block.lastOp = e.op ∧ t.block.lastValid = true) ∧
    (∀ p, t.result = some (.ok (.packet p)) → p.dir = .instruction →
      rawOperand i = p.raw ∧ (∃ e ∈ s.params.registry.entries, e.op = byteAt p.raw 7) ∧
        t.block.lastOp = byteAt p.raw 7 ∧ t.block.lastValid = true) ∧
    (i = .reset → t.block.lastOp = 0x00 ∧ t.block.lastValid = false) ∧
    (i ≠ .reset → (∀ f p, t.result ≠ some (.ok (.assembled f p))) →
      (∀ p, t.result = some (.ok (.packet p)) → p.dir = .status) →
      t.block.lastOp = s.block.lastOp ∧ t.block.lastValid = s.block.lastValid)

/-- R127, R128: CRC16, code 0x01, computes a CRC from a given seed and loads the accumulator with it, and CRC_FEED, code
0x02, continues the accumulated CRC over more bytes; every operand is legal and nothing else but `status` is written. -/
def Obligations.CrcCommandsSetAccumulator : Prop :=
  (∀ (seed : Half) (data : Bytes) (s : State),
    decode (.command { code := 0x01, seed := seed, data := data }) = .ok (.crc16 seed data) ∧
    exec (.crc16 seed data) s =
      .next (s.afterOk { s.block with crcAcc := crc16 seed data } (.crc (crc16 seed data)))) ∧
  (∀ (data : Bytes) (s : State),
    decode (.command { code := 0x02, data := data }) = .ok (.crcFeed data) ∧
    exec (.crcFeed data) s =
      .next (s.afterOk { s.block with crcAcc := crc16 s.block.crcAcc data } (.crc (crc16 s.block.crcAcc data))))

/-- R121, R122: every entry of the table the engine carries is the value of the generator function of polynomial 0x8005;
a step of the engine is the source's table formula, and with it eight shifts of the register with the byte entered at
its high end; and the source's one frame with its CRC is reproduced. The table's values are those of R120, which the
spec marks as general knowledge. -/
def Obligations.CrcTableIsPolynomialDivision : Prop :=
  crcTable.length = 256 ∧ (∀ i : Byte, crcEntry i = crcGenerator i) ∧
  (∀ (c : Half) (b : Byte), crcStep c b = (c <<< 8) ^^^ crcEntry ((c >>> 8).setWidth 8 ^^^ b)) ∧
  (∀ (c : Half) (b : Byte), crcStep c b = crcShifts 8 (c ^^^ (b.setWidth 16 <<< 8))) ∧
  crc16 0 [0xFF, 0xFF, 0xFD, 0x00, 0x01, 0x07, 0x00, 0x55, 0x00, 0x06, 0x04, 0x26] = 0x5D65

/-- R125, laws (a) to (e), and that law (e) fails for the frame's little-endian order. -/
def Obligations.CrcEngineLaws : Prop :=
  (∀ s : Half, crc16 s [] = s) ∧
  (∀ (s : Half) (a b : Bytes), crc16 s (a ++ b) = crc16 (crc16 s a) b) ∧
  (∀ n : Nat, crc16 0 (List.replicate n 0x00) = 0x0000) ∧
  (∀ b : Byte, crc16 0 [b] = crcEntry b) ∧
  (∀ m : Bytes, crc16 0 (m ++ [highByte (crc16 0 m), lowByte (crc16 0 m)]) = 0) ∧
  (∃ m : Bytes, crc16 0 (m ++ [lowByte (crc16 0 m), highByte (crc16 0 m)]) ≠ 0)

/-- R148, R149: from a legal window STUFF, code 0x10, returns the stuffed span and the end state, and UNSTUFF, code 0x11,
the kept bytes, the end state and its two flags, raising nothing; `w0 = 3` raises BadOperand; nothing but `status` is
written. -/
def Obligations.StuffingCommandsReturnTransforms : Prop :=
  (∀ (w0 : BitVec 2) (p0 : Bool) (data : Bytes),
    decode (.command { code := 0x10, w0 := w0, data := data }) = .ok (.stuff w0 data) ∧
    decode (.command { code := 0x11, w0 := w0, p0 := p0, data := data }) = .ok (.unstuff w0 p0 data)) ∧
  (∀ (w0 : BitVec 2) (w : Window) (data : Bytes) (s : State), w.code = w0 →
    exec (.stuff w0 data) s = .next (s.afterOk s.block (.stuffed (stuff w data).1 (stuff w data).2))) ∧
  (∀ (w0 : BitVec 2) (w : Window) (p0 : Bool) (data : Bytes) (s : State), w.code = w0 →
    exec (.unstuff w0 p0 data) s =
      .next (s.afterOk s.block (.unstuffed (unstuff w p0 data).out (unstuff w p0 data).wEnd
        (unstuff w p0 data).pEnd (unstuff w p0 data).esc))) ∧
  (∀ (p0 : Bool) (data : Bytes) (s : State),
    exec (.stuff 3 data) s = .next (s.afterError [] ⟨.badOperand, 0, .byte 0x03⟩) ∧
    exec (.unstuff 3 p0 data) s = .next (s.afterError [] ⟨.badOperand, 0, .byte 0x03⟩))

/-- R145: unstuffing undoes stuffing from every window state, ends in the same window state, leaves no escape pending
and flags no error. -/
def Obligations.UnstuffInvertsStuff : Prop :=
  ∀ (w : Window) (x : Bytes), unstuff w false (stuff w x).1 = ⟨x, (stuff w x).2, false, false⟩

/-- R143, R142: a span that unstuffs without a missing or pending escape is the stuffing of what it unstuffs to. -/
def Obligations.CleanSpanIsStuffed : Prop :=
  ∀ (w : Window) (y : Bytes), (unstuff w false y).esc = false → (unstuff w false y).pEnd = false →
    stuff w (unstuff w false y).out = (y, (unstuff w false y).wEnd)

/-- R147: spans compose, the end state of one being the start state of the next. -/
def Obligations.SpansChain : Prop :=
  (∀ (w : Window) (a b : Bytes),
    stuff w (a ++ b) = ((stuff w a).1 ++ (stuff (stuff w a).2 b).1, (stuff (stuff w a).2 b).2)) ∧
  (∀ (w : Window) (p : Bool) (a b : Bytes),
    let first := unstuff w p a
    let second := unstuff first.wEnd first.pEnd b
    unstuff w p (a ++ b) = ⟨first.out ++ second.out, second.wEnd, second.pEnd, first.esc || second.esc⟩)

/-- R146 (a), (b): in a span stuffed from state 0 every `FF FF FD` is followed by an `FD`, so the frame marker
`FF FF FD 00` never occurs wholly inside it. -/
def Obligations.StuffedSpanHidesMarker : Prop :=
  ∀ (x : Bytes) (k : Nat),
    (slice (stuff .zero x).1 k (k + 3) = [0xFF, 0xFF, 0xFD] → (stuff .zero x).1[k + 3]? = some 0xFD) ∧
    slice (stuff .zero x).1 k (k + 4) ≠ [0xFF, 0xFF, 0xFD, 0x00]

/-- R175, R176, R174: integer encoding and decoding are inverse for each width and signedness. -/
def Obligations.IntegerCodecRoundTrip : Prop :=
  ∀ (w : Nat) (signed : Bool), (w = 1 ∨ w = 2 ∨ w = 4) →
    (∀ v : Int, inRange w signed v = true →
      (encodeInt v w).length = w ∧ decodeInt (encodeInt v w) signed = v) ∧
    (∀ b : Bytes, b.length = w →
      inRange w signed (decodeInt b signed) = true ∧ encodeInt (decodeInt b signed) w = b)

/-- R171: a layout is accepted exactly when its tags are defined, a greedy field stands only last and its names are
distinct; otherwise the first descriptor that fails raises: BAD_TAG (3), then GREEDY_NOT_LAST (1), then DUP_NAME (2). -/
def Obligations.LayoutCheckMeaning : Prop :=
  let tags : List Byte := [0x01, 0x02, 0x04, 0x11, 0x12, 0x14, 0x20, 0x30]
  (∀ lay : Layout, wfLayout lay = .ok () ↔
    (∀ d ∈ lay, d.tag ∈ tags) ∧
    (∀ pre d post, lay = pre ++ d :: post → d.tag = 0x30 → post = []) ∧
    (lay.map FieldDesc.name).Nodup) ∧
  (∀ (pre post : Layout) (d : FieldDesc),
    (∀ e ∈ pre, e.tag ∈ tags ∧ e.tag ≠ 0x30) → (pre.map FieldDesc.name).Nodup →
    (d.tag ∉ tags → wfLayout (pre ++ d :: post) = .error ⟨.layoutError, 3, .name d.name⟩) ∧
    (d.tag = 0x30 → post ≠ [] → wfLayout (pre ++ d :: post) = .error ⟨.layoutError, 1, .name d.name⟩) ∧
    (d.tag ∈ tags → (d.tag = 0x30 → post = []) → d.name ∈ pre.map FieldDesc.name →
      wfLayout (pre ++ d :: post) = .error ⟨.layoutError, 2, .name d.name⟩))

/-- R180, R177: PACK, code 0x20, of legal values returns the fields laid end to end in layout order and touches nothing but
`status`. Its errors come in their order: LayoutError, UnknownField at the first unknown pair, FieldValue DUP at the
first repeated name, MissingField at the first descriptor without a pair, then FieldValue TYPE, RANGE or LENGTH at the
first descriptor whose value is not legal. -/
def Obligations.PackFollowsItsChecks : Prop :=
  ∀ (lay : Layout) (vals : Values) (s : State),
    decode (.command { code := 0x20, layout := lay, values := vals }) = .ok (.pack lay vals) ∧
    (PackLegal lay vals →
      exec (.pack lay vals) s = .next (s.afterOk s.block (.bytes (encodedFields lay vals)))) ∧
    (∀ r, wfLayout lay = .error r → exec (.pack lay vals) s = .next (s.afterError [] r)) ∧
    (layoutOk lay = true →
      (∀ pre k v post, vals = pre ++ (k, v) :: post → (∀ p ∈ pre, p.1 ∈ lay.map FieldDesc.name) →
        k ∉ lay.map FieldDesc.name →
        exec (.pack lay vals) s = .next (s.afterError [] ⟨.unknownField, 0, .name k⟩)) ∧
      ((∀ p ∈ vals, p.1 ∈ lay.map FieldDesc.name) →
        (∀ pre k v post, vals = pre ++ (k, v) :: post → (pre.map Prod.fst).Nodup → k ∈ pre.map Prod.fst →
          exec (.pack lay vals) s = .next (s.afterError [] ⟨.fieldValue, 4, .name k⟩)) ∧
        ((vals.map Prod.fst).Nodup →
          (∀ pre d post, lay = pre ++ d :: post → (∀ e ∈ pre, e.name ∈ vals.map Prod.fst) →
            d.name ∉ vals.map Prod.fst →
            exec (.pack lay vals) s = .next (s.afterError [] ⟨.missingField, 0, .name d.name⟩)) ∧
          ((∀ d ∈ lay, d.name ∈ vals.map Prod.fst) →
            ∀ pre d post v, lay = pre ++ d :: post →
              (∀ e ∈ pre, ∃ w, (e.name, w) ∈ vals ∧ LegalValue e w) → (d.name, v) ∈ vals → ¬ LegalValue d v →
              exec (.pack lay vals) s =
                .next (s.afterError [] ⟨.fieldValue, valueFault d v, .name d.name⟩)))))

/-- R181, R178: UNPACK, code 0x21, decodes a buffer that fits its layout, one pair for each descriptor in layout order,
each value read from the bytes behind the fields before it, a greedy field taking all that remain; a layout error, a
short buffer and a long one raise, in that order, with `raw = data`. -/
def Obligations.UnpackDecodesFittingBuffer : Prop :=
  (∀ (lay : Layout) (data : Bytes) (s : State),
    decode (.command { code := 0x21, layout := lay, data := data }) = .ok (.unpack lay data) ∧
    (UnpackFits lay data.length →
      exec (.unpack lay data) s = .next (s.afterOk s.block (.values (unpackFields lay data)))) ∧
    (∀ r, wfLayout lay = .error r → exec (.unpack lay data) s = .next (s.afterError data r)) ∧
    (layoutOk lay = true → data.length < fixedSize lay →
      exec (.unpack lay data) s = .next (s.afterError data ⟨.payloadLength, 1, .none⟩)) ∧
    (layoutOk lay = true → greedyLayout lay = false → fixedSize lay < data.length →
      exec (.unpack lay data) s = .next (s.afterError data ⟨.payloadLength, 2, .none⟩))) ∧
  (∀ (pre post : Layout) (d : FieldDesc) (data : Bytes),
    let pos := fixedSize pre
    let valueIs := fun (v : FieldValue) => (unpackFields (pre ++ d :: post) data)[pre.length]? = some (d.name, v)
    let number := fun (w : Nat) (signed : Bool) => valueIs (.int (decodeInt (slice data pos (pos + w)) signed))
    (unpackFields (pre ++ d :: post) data).length = (pre ++ d :: post).length ∧
    (d.tag = 0x01 → number 1 false) ∧ (d.tag = 0x02 → number 2 false) ∧ (d.tag = 0x04 → number 4 false) ∧
    (d.tag = 0x11 → number 1 true) ∧ (d.tag = 0x12 → number 2 true) ∧ (d.tag = 0x14 → number 4 true) ∧
    (d.tag = 0x20 → valueIs (.bytes (slice data pos (pos + d.n.toNat)))) ∧
    (d.tag = 0x30 → valueIs (.bytes (data.drop pos))))

/-- R179 (a) to (c): unpacking what `pack` packed gives the values in layout order; packing what `unpack` decoded gives the
buffer back; and the packed length is the fixed size plus the greedy value's length. -/
def Obligations.FieldCodecLaws : Prop :=
  (∀ (lay : Layout) (vals : Values) (out : Bytes), pack lay vals = .ok out →
    unpack lay out = .ok (inLayoutOrder lay vals)) ∧
  (∀ (lay : Layout) (buf : Bytes) (res : Values), unpack lay buf = .ok res → pack lay res = .ok buf) ∧
  (∀ (lay : Layout) (vals : Values) (out : Bytes), pack lay vals = .ok out →
    out.length = fixedSize lay + greedyLength lay vals)

/-- R182: GET_FIELD, code 0x22, returns the first pair with the name, in list order, or raises UnknownField. -/
def Obligations.GetFieldReturnsFirstMatch : Prop :=
  (∀ (vals : Values) (fname : Name),
    decode (.command { code := 0x22, values := vals, fname := fname }) = .ok (.getField vals fname)) ∧
  (∀ (pre post : Values) (fname : Name) (v : FieldValue) (s : State), fname ∉ pre.map Prod.fst →
    exec (.getField (pre ++ (fname, v) :: post) fname) s = .next (s.afterOk s.block (.value v))) ∧
  (∀ (vals : Values) (fname : Name) (s : State), fname ∉ vals.map Prod.fst →
    exec (.getField vals fname) s = .next (s.afterError [] ⟨.unknownField, 0, .name fname⟩))

/-- R248, R241 to R245: every case of DET_PUSH, code 0x30. -/
def Obligations.DetPushFollowsTransitions : Prop :=
  ∀ (b : Byte) (s : State),
    let pushed := fun (d : DetState) (buf : Bytes) =>
      exec (.detPush b) s = .next (s.afterOk { s.block with detState := d, detBuf := buf } (.detState d))
    let restarted := (b = 0xFF → pushed .starting [0xFF]) ∧ (b ≠ 0xFF → pushed .idle [])
    let buf := s.block.detBuf
    decode (.command { code := 0x30, b := b }) = .ok (.detPush b) ∧
    (s.block.detState = .complete →
      exec (.detPush b) s = .next (s.afterError [] ⟨.detectorBusy, 0, .byte b⟩)) ∧
    (s.block.detState = .idle ∨ s.block.detState = .starting →
      ((buf.length = 0 ∨ buf.length = 1) → b = 0xFF → pushed .starting (buf ++ [b])) ∧
      (buf.length = 2 → b = 0xFD → pushed .inProgress (buf ++ [b])) ∧
      (¬ ((buf.length = 0 ∨ buf.length = 1) ∧ b = 0xFF) → ¬ (buf.length = 2 ∧ b = 0xFD) → restarted)) ∧
    (s.block.detState = .inProgress →
      (buf.length = 3 → b ≠ 0x00 → restarted) ∧
      (6 ≤ buf.length → buf.length + 1 = declared (buf ++ [b]) + 7 → pushed .complete (buf ++ [b])) ∧
      (¬ (buf.length = 3 ∧ b ≠ 0x00) → ¬ (6 ≤ buf.length ∧ buf.length + 1 = declared (buf ++ [b]) + 7) →
        pushed .inProgress (buf ++ [b])))

/-- R249: DET_CLEAR, code 0x31, empties the detector from every state and touches nothing else but `status`. -/
def Obligations.DetClearEmptiesDetector : Prop :=
  decode (.command { code := 0x31 }) = .ok .detClear ∧
  ∀ s : State, exec .detClear s =
    .next (s.afterOk { s.block with detState := .idle, detBuf := [] } .none)

/-- R251 (a), R244: fed from an idle detector, a whole frame passes IDLE, STARTING, STARTING and IN_PROGRESS and completes
at exactly its last byte, the buffer then being that frame; before it, the buffer holds what was fed and no busy error
occurs. -/
def Obligations.WholeFrameCompletesAtItsEnd : Prop :=
  ∀ (f : Bytes) (s : State), WholeFrame f → s.block.detState = .idle → s.block.detBuf = [] →
    (∀ k, k < f.length →
      (k = 0 → (detFeed (f.take k) s).1.block.detState = .idle) ∧
      (k = 1 ∨ k = 2 → (detFeed (f.take k) s).1.block.detState = .starting) ∧
      (3 ≤ k → (detFeed (f.take k) s).1.block.detState = .inProgress) ∧
      (detFeed (f.take k) s).1.block.detBuf = f.take k ∧ (detFeed (f.take k) s).2 = []) ∧
    (detFeed f s).1.block.detBuf = f ∧ (detFeed f s).1.block.detState = .complete ∧ (detFeed f s).2 = []

/-- R251 (c), R372: a whole frame behind `k` stray `FF` bytes is found when `k` is even; when `k` is odd its `FD` sends
the detector back to IDLE. -/
def Obligations.StrayHeaderBytesParity : Prop :=
  ∀ (k : Nat) (f : Bytes) (s : State), WholeFrame f → s.block.detState = .idle → s.block.detBuf = [] →
    (k % 2 = 0 →
      (detFeed (List.replicate k 0xFF ++ f) s).1.block.detState = .complete ∧
      (detFeed (List.replicate k 0xFF ++ f) s).1.block.detBuf = f ∧
      (detFeed (List.replicate k 0xFF ++ f) s).2 = []) ∧
    (k % 2 = 1 →
      (detFeed (List.replicate k 0xFF ++ f.take 2) s).1.block.detBuf = [0xFF] ∧
      (detFeed (List.replicate k 0xFF ++ f.take 3) s).1.block.detState = .idle ∧
      (detFeed (List.replicate k 0xFF ++ f.take 3) s).1.block.detBuf = [])

/-- R250, R103: how a stream is split into chunks changes no result: feeding two chunks is feeding their concatenation,
and after a busy error the bytes not consumed are the same. -/
def Obligations.ChunkSplitChangesNothing : Prop :=
  ∀ (a b : Bytes) (s : State),
    ((detFeed a s).2 = [] → detFeed (a ++ b) s = detFeed b (detFeed a s).1) ∧
    ((detFeed a s).2 ≠ [] → detFeed (a ++ b) s = ((detFeed a s).1, (detFeed a s).2 ++ b))

/-- R211: what a well-formed registry is; R363, R8: an instance is constructed exactly from those, in its reset state. -/
def Obligations.ConstructionRequiresWellFormedRegistry : Prop :=
  (∀ entries : List Entry, registryWf entries = true ↔
    (entries.map Entry.op).Nodup ∧ (entries.map Entry.name).Nodup ∧ (∀ e ∈ entries, e.op ≠ 0x55) ∧
    (∀ e ∈ entries, wfLayout e.outLayout = .ok () ∧ wfLayout e.inLayout = .ok ())) ∧
  (∀ (entries : List Entry) (policy : CrcPolicy), registryWf entries = false →
    State.construct entries policy = none) ∧
  (∀ (entries : List Entry) (policy : CrcPolicy), registryWf entries = true →
    ∃ s, State.construct entries policy = some s ∧ s.params.registry.entries = entries ∧
      s.params.crcPolicy = policy ∧ s.block = Block.reset ∧ s.commands = [] ∧ s.result = none)

/-- R80, R81, R82: a built frame, offset by offset, its length relations and its CRC; R83: what stands between its header
and its CRC is the stuffed opcode and params; R86, R87: its bounds, and its length found from its first seven bytes on. -/
def Obligations.BuiltFrameLayout : Prop :=
  ∀ (op id : Byte) (params : Bytes), declaredLength op params ≤ 0xFFFF →
    let f := buildFrame op id params
    (stuff .zero (op :: params)).1 = op :: stuffedParams op params ∧
    f = frameOf op id (stuffedParams op params) ∧
    declared f = (stuffedParams op params).length + 3 ∧ f.length = declared f + 7 ∧
    (∀ k, 7 ≤ k → frameLength? (f.take k) = some f.length) ∧ 10 ≤ f.length ∧ f.length ≤ 65542 ∧
    slice f 8 (f.length - 2) = stuffedParams op params ∧ carriedCrc f = recomputedCrc f

/-- R273, R274: ASSEMBLE, code 0x40, builds the instruction frame of a registry entry and records its opcode; its errors
come in their order, UnknownInstruction, IdRange, the errors of `pack`, FrameTooLong. -/
def Obligations.AssembleFollowsItsChecks : Prop :=
  (∀ (iname : Name) (id : Byte) (vals : Values),
    decode (.command { code := 0x40, iname := iname, id := id, values := vals }) = .ok (.assemble iname id vals)) ∧
  (∀ (e : Entry) (id : Byte) (vals : Values) (s : State),
    let sp := stuffedParams e.op (encodedFields e.outLayout vals)
    e ∈ s.params.registry.entries → LegalPacketId id → PackLegal e.outLayout vals → sp.length + 3 ≤ 0xFFFF →
    exec (.assemble e.name id vals) s =
      .next (s.afterOk { s.block with lastOp := e.op, lastValid := true }
        (.assembled (frameOf e.op id sp)
          (instructionPacket e.name id (inLayoutOrder e.outLayout vals) (frameOf e.op id sp))))) ∧
  (∀ (iname : Name) (id : Byte) (vals : Values) (s : State),
    ((∀ e ∈ s.params.registry.entries, e.name ≠ iname) →
      exec (.assemble iname id vals) s = .next (s.afterError [] ⟨.unknownInstruction, 0, .name iname⟩)) ∧
    (∀ e ∈ s.params.registry.entries, e.name = iname →
      (¬ LegalPacketId id → exec (.assemble iname id vals) s = .next (s.afterError [] ⟨.idRange, 0, .byte id⟩)) ∧
      (LegalPacketId id →
        (∀ r, pack e.outLayout vals = .error r →
          exec (.assemble iname id vals) s = .next (s.afterError [] r)) ∧
        (PackLegal e.outLayout vals →
          0xFFFF < (stuffedParams e.op (encodedFields e.outLayout vals)).length + 3 →
          exec (.assemble iname id vals) s = .next (s.afterError [] ⟨.frameTooLong, 0, .none⟩)))))

/-- R275: the structural checks of DISASSEMBLE, code 0x41, in their order: SHORT, HEADER, LENGTH, ID. -/
def Obligations.DisassembleStructuralChecks : Prop :=
  ∀ (f : Bytes) (s : State),
    let malformedAs := fun (sub : Byte) (info : Info) =>
      exec (.disassemble f) s = .next (s.afterError f ⟨.malformedFrame, sub, info⟩)
    decode (.command { code := 0x41, frame := f }) = .ok (.disassemble f) ∧
    (f.length < 10 → malformedAs 1 .none) ∧
    (10 ≤ f.length → slice f 0 4 ≠ [0xFF, 0xFF, 0xFD, 0x00] → malformedAs 2 .none) ∧
    (10 ≤ f.length → slice f 0 4 = [0xFF, 0xFF, 0xFD, 0x00] →
      (declared f < 3 ∨ f.length ≠ declared f + 7 → malformedAs 3 .none) ∧
      (3 ≤ declared f → f.length = declared f + 7 → ¬ LegalPacketId (byteAt f 4) →
        malformedAs 4 (.byte (byteAt f 4))))

/-- R276 to R280: what DISASSEMBLE does with a frame that passes the checks of R275. A CRC mismatch raises under STRICT; a
missing or due escape raises ESCAPE; a status frame resolves to the entry of the last instruction, or raises
NoPriorInstruction; any other frame resolves to the entry with its opcode, or raises UnknownInstruction; params that do
not fit the resolved layout raise PAYLOAD; else the packet record is returned, under LENIENT with a CRC mismatch carried
as `crc_ok = 0`, and only an instruction frame writes the correlation cell. -/
def Obligations.DisassembleFollowsItsChecks : Prop :=
  ∀ (f : Bytes) (s : State), 10 ≤ f.length → slice f 0 4 = [0xFF, 0xFF, 0xFD, 0x00] → 3 ≤ declared f →
    f.length = declared f + 7 → LegalPacketId (byteAt f 4) →
    let raised := fun (r : Raise) => exec (.disassemble f) s = .next (s.afterError f r)
    let params := (unstuffedParams f).out
    let record := fun (dir : Direction) (name : Name) (lay : Layout) =>
      Answer.packet { dir := dir, name := name, id := byteAt f 4, fields := unpackFields lay params, raw := f,
                      crc := carriedCrc f, crcOk := decide (carriedCrc f = recomputedCrc f) }
    (s.params.crcPolicy = .strict → carriedCrc f ≠ recomputedCrc f → raised ⟨.malformedFrame, 5, .none⟩) ∧
    ((s.params.crcPolicy = .strict → carriedCrc f = recomputedCrc f) →
      ((unstuffedParams f).esc = true ∨ (unstuffedParams f).pEnd = true → raised ⟨.malformedFrame, 6, .none⟩) ∧
      ((unstuffedParams f).esc = false → (unstuffedParams f).pEnd = false →
        (byteAt f 7 = 0x55 → s.block.lastValid = false → raised ⟨.noPriorInstruction, 0, .none⟩) ∧
        (byteAt f 7 ≠ 0x55 → (∀ e ∈ s.params.registry.entries, e.op ≠ byteAt f 7) →
          raised ⟨.unknownInstruction, 0, .byte (byteAt f 7)⟩) ∧
        (∀ e ∈ s.params.registry.entries,
          (byteAt f 7 = 0x55 → s.block.lastValid = true → e.op = s.block.lastOp →
            (¬ UnpackFits e.inLayout params.length → raised ⟨.malformedFrame, 7, .none⟩) ∧
            (UnpackFits e.inLayout params.length →
              exec (.disassemble f) s =
                .next (s.afterOk s.block (record .status ("status_" ++ e.name) e.inLayout)))) ∧
          (e.op = byteAt f 7 →
            (¬ UnpackFits e.outLayout params.length → raised ⟨.malformedFrame, 7, .none⟩) ∧
            (UnpackFits e.outLayout params.length →
              exec (.disassemble f) s =
                .next (s.afterOk { s.block with lastOp := byteAt f 7, lastValid := true }
                  (record .instruction ("instruction_" ++ e.name) e.outLayout)))))))

/-- R283: disassembling an assembled frame gives back the instruction, the id and the field values, in any instance with
the same registry and under either policy. -/
def Obligations.AssembleThenDisassemble : Prop :=
  ∀ (e : Entry) (id : Byte) (vals : Values) (s t u : State) (f : Bytes) (p : Packet),
    e ∈ s.params.registry.entries → exec (.assemble e.name id vals) s = .next t →
    t.result = some (.ok (.assembled f p)) → u.params.registry = s.params.registry →
    exec (.disassemble f) u =
      .next (u.afterOk { u.block with lastOp := e.op, lastValid := true }
        (.packet { dir := .instruction, name := "instruction_" ++ e.name, id := id,
                   fields := inLayoutOrder e.outLayout vals, raw := f, crc := p.crc, crcOk := true }))

/-- R284, R282: a successful DISASSEMBLE reports the frame it was given and the CRC the frame carries; under STRICT that
CRC is the recomputed one, and under LENIENT the two differ exactly when `crc_ok = 0`. -/
def Obligations.ReportedCrcIsCarried : Prop :=
  ∀ (f : Bytes) (s t : State) (p : Packet), exec (.disassemble f) s = .next t →
    t.result = some (.ok (.packet p)) →
    p.raw = f ∧ p.crc = carriedCrc f ∧ (p.crcOk = false ↔ p.crc ≠ recomputedCrc f) ∧
    (s.params.crcPolicy = .strict → p.crc = recomputedCrc f)

/-- The reference registry, row by row, as R221 tabulates it, and that it is well-formed. Its opcodes and layouts are what
the spec marks as general knowledge and its own decision: "A model may pass it as `REGISTRY`. The spec's rules do not
depend on it." (notes/assumptions/1.md). -/
def Obligations.ReferenceRegistryRows : Prop :=
  let u8 := fun (nm : Name) => FieldDesc.mk nm 0x01 0
  let u16 := fun (nm : Name) => FieldDesc.mk nm 0x02 0
  let greedy := fun (nm : Name) => FieldDesc.mk nm 0x30 0
  registryWf refRegistry.entries = true ∧ refRegistry.entries =
    [⟨0x01, "ping", [], [u8 "error", u16 "model_number", u8 "firmware_version"]⟩,
     ⟨0x02, "read", [u16 "address", u16 "length"], [u8 "error", greedy "data"]⟩,
     ⟨0x03, "write", [u16 "address", greedy "data"], [u8 "error"]⟩,
     ⟨0x04, "reg_write", [u16 "address", greedy "data"], [u8 "error"]⟩,
     ⟨0x05, "action", [], [u8 "error"]⟩,
     ⟨0x06, "factory_reset", [u8 "option"], [u8 "error"]⟩,
     ⟨0x08, "reboot", [], [u8 "error"]⟩,
     ⟨0x10, "clear", [u8 "option", ⟨"key", 0x20, 4⟩], [u8 "error"]⟩,
     ⟨0x82, "sync_read", [u16 "address", u16 "length", greedy "ids"], [u8 "error", greedy "data"]⟩,
     ⟨0x83, "sync_write", [u16 "address", u16 "length", greedy "data"], []⟩,
     ⟨0x92, "bulk_read", [greedy "data"], [u8 "error", greedy "data"]⟩,
     ⟨0x93, "bulk_write", [greedy "data"], []⟩]

/-- R222, R223, R226, R228: with REF, which the spec marks as its own decision and its opcodes as general knowledge
(notes/assumptions/1.md), as the registry, the frames without a greedy or array field, ping, read, action and
reboot, are received as their instructions. -/
def Obligations.PingReadActionRebootReceived : Prop :=
  ∀ (id : Byte) (a l : Half) (s : State), s.params.registry = refRegistry → LegalPacketId id →
    exec (.ping id) s = .next (s.received 0x01 id "ping" [] []) ∧
    exec (.read id a l) s =
      .next (s.received 0x02 id "read" [("address", .int a.toNat), ("length", .int l.toNat)]
        [lowByte a, highByte a, lowByte l, highByte l]) ∧
    exec (.action id) s = .next (s.received 0x05 id "action" [] []) ∧
    exec (.reboot id) s = .next (s.received 0x08 id "reboot" [] [])

/-- R224, R225: with REF (notes/assumptions/1.md) as the registry, a write and a reg_write frame are received with their address and data. -/
def Obligations.WriteFramesReceived : Prop :=
  ∀ (id : Byte) (a : Half) (data : Bytes) (s : State), s.params.registry = refRegistry → LegalPacketId id →
    let params := lowByte a :: highByte a :: data
    let fields : Values := [("address", .int a.toNat), ("data", .bytes data)]
    ((stuffedParams 0x03 params).length + 3 ≤ 0xFFFF →
      exec (.write id a data) s = .next (s.received 0x03 id "write" fields params)) ∧
    ((stuffedParams 0x04 params).length + 3 ≤ 0xFFFF →
      exec (.regWrite id a data) s = .next (s.received 0x04 id "reg_write" fields params))

/-- R227, R229: with REF (notes/assumptions/1.md) as the registry, a factory_reset and a clear frame are received with their option, and clear
with its four key bytes. -/
def Obligations.OptionFramesReceived : Prop :=
  ∀ (id option : Byte) (key : Bytes) (s : State), s.params.registry = refRegistry → LegalPacketId id →
    exec (.factoryReset id option) s =
      .next (s.received 0x06 id "factory_reset" [("option", .int option.toNat)] [option]) ∧
    (key.length = 4 → exec (.clear id option key) s =
      .next (s.received 0x10 id "clear" [("option", .int option.toNat), ("key", .bytes key)] (option :: key)))

/-- R230 to R233: with REF (notes/assumptions/1.md) as the registry, a sync_read and a sync_write frame are received with their address, length and
greedy field, and a bulk_read and a bulk_write frame with their data. -/
def Obligations.GroupFramesReceived : Prop :=
  ∀ (id : Byte) (a l : Half) (rest : Bytes) (s : State), s.params.registry = refRegistry → LegalPacketId id →
    let params := lowByte a :: highByte a :: lowByte l :: highByte l :: rest
    ((stuffedParams 0x82 params).length + 3 ≤ 0xFFFF →
      exec (.syncRead id a l rest) s = .next (s.received 0x82 id "sync_read"
        [("address", .int a.toNat), ("length", .int l.toNat), ("ids", .bytes rest)] params)) ∧
    ((stuffedParams 0x83 params).length + 3 ≤ 0xFFFF →
      exec (.syncWrite id a l rest) s = .next (s.received 0x83 id "sync_write"
        [("address", .int a.toNat), ("length", .int l.toNat), ("data", .bytes rest)] params)) ∧
    ((stuffedParams 0x92 rest).length + 3 ≤ 0xFFFF →
      exec (.bulkRead id rest) s = .next (s.received 0x92 id "bulk_read" [("data", .bytes rest)] rest)) ∧
    ((stuffedParams 0x93 rest).length + 3 ≤ 0xFFFF →
      exec (.bulkWrite id rest) s = .next (s.received 0x93 id "bulk_write" [("data", .bytes rest)] rest))

/-- R214, R216, R217: a status frame is resolved through the correlation cell, whatever the registry, and leaves the
cell as it is; with the cell unset it raises NoPriorInstruction. -/
def Obligations.StatusFrameCorrelates : Prop :=
  ∀ (id : Byte) (params : Bytes) (s : State), LegalPacketId id →
    (stuffedParams 0x55 params).length + 3 ≤ 0xFFFF →
    let f := frameOf 0x55 id (stuffedParams 0x55 params)
    (∀ e ∈ s.params.registry.entries, s.block.lastValid = true → e.op = s.block.lastOp →
      UnpackFits e.inLayout params.length →
      exec (.status id params) s =
        .next (s.afterOk s.block
          (.packet { dir := .status, name := "status_" ++ e.name, id := id,
                     fields := unpackFields e.inLayout params, raw := f,
                     crc := crc16 0 (f.take (f.length - 2)), crcOk := true }))) ∧
    (s.block.lastValid = false →
      exec (.status id params) s = .next (s.afterError f ⟨.noPriorInstruction, 0, .none⟩))

/-- R34, R40: the readout port delivers each element whole, `det_state` as the codes 0 to 3 and `det_buf` with its
length. -/
def Obligations.ReadoutDeliversElements : Prop :=
  ∀ s : State,
    s.readout .crcAcc = .half s.block.crcAcc ∧
    (s.block.detState = .idle → s.readout .detState = .state 0) ∧
    (s.block.detState = .starting → s.readout .detState = .state 1) ∧
    (s.block.detState = .inProgress → s.readout .detState = .state 2) ∧
    (s.block.detState = .complete → s.readout .detState = .state 3) ∧
    s.readout .detBuf = .buffer s.block.detBuf s.block.detBuf.length ∧
    s.readout .lastOp = .byte s.block.lastOp ∧ s.readout .lastValid = .flag s.block.lastValid ∧
    s.readout .status = .status s.block.status.code s.block.status.sub
end

