-- ==== Sys2Proof/Laws/Bytes.lean ====
section
/-! SUPPORT. The arithmetic of bytes: little-endian words, slices and indexing. -/

namespace Sys2Proof.Machine

@[simp] theorem leBytes_length (w u : Nat) : (leBytes w u).length = w := by
  induction w generalizing u with
  | zero => rfl
  | succ w ih => simp [leBytes, ih]

theorem leNat_lt (s : Bytes) : leNat s < 256 ^ s.length := by
  induction s with
  | nil => simp [leNat]
  | cons b bs ih =>
    have := b.isLt
    simp only [leNat, List.length_cons, Nat.pow_succ]
    omega

theorem leNat_leBytes (w u : Nat) : leNat (leBytes w u) = u % 256 ^ w := by
  induction w generalizing u with
  | zero => simp [leBytes, leNat, Nat.mod_one]
  | succ w ih =>
    rw [pow_succ', Nat.mod_mul]
    simp [leBytes, leNat, ih]

theorem leBytes_leNat (s : Bytes) : leBytes s.length (leNat s) = s := by
  induction s with
  | nil => rfl
  | cons b bs ih =>
    have := b.isLt
    simp only [List.length_cons, leBytes, leNat]
    rw [show (b.toNat + 256 * leNat bs) / 256 = leNat bs by omega, ih]
    congr 1
    apply BitVec.eq_of_toNat_eq
    simp only [BitVec.toNat_ofNat]
    omega

@[simp] theorem halfBytes_length (x : Half) : (halfBytes x).length = 2 := by simp [halfBytes]

theorem halfBytes_eq (x : Half) : halfBytes x = [lowByte x, highByte x] := by
  have := x.isLt
  simp only [halfBytes, leBytes, lowByte, highByte, List.cons.injEq, and_true]
  constructor <;> apply BitVec.eq_of_toNat_eq <;>
    simp [BitVec.toNat_ofNat, BitVec.toNat_setWidth, BitVec.toNat_ushiftRight, Nat.shiftRight_eq_div_pow]

theorem le16_lt (lo hi : Byte) : le16 lo hi < 65536 := by
  have := lo.isLt
  have := hi.isLt
  simp only [le16]
  omega

theorem le16_ofNat {u : Nat} (h : u < 65536) : le16 (BitVec.ofNat 8 u) (BitVec.ofNat 8 (u / 256)) = u := by
  simp only [le16, BitVec.toNat_ofNat]
  omega

@[simp] theorem halfOf_bytes (x : Half) : halfOf (lowByte x) (highByte x) = x := by
  have := x.isLt
  apply BitVec.eq_of_toNat_eq
  simp only [halfOf, le16, lowByte, highByte, BitVec.toNat_ofNat, BitVec.toNat_setWidth, BitVec.toNat_ushiftRight,
    Nat.shiftRight_eq_div_pow]
  omega

@[simp] theorem halfBytes_halfOf (lo hi : Byte) : halfBytes (halfOf lo hi) = [lo, hi] := by
  have := lo.isLt
  have := hi.isLt
  rw [halfBytes_eq]
  simp only [List.cons.injEq, and_true]
  constructor <;> apply BitVec.eq_of_toNat_eq <;>
    simp only [halfOf, le16, lowByte, highByte, BitVec.toNat_ofNat, BitVec.toNat_setWidth,
      BitVec.toNat_ushiftRight, Nat.shiftRight_eq_div_pow] <;> omega

theorem leNat_pair (lo hi : Byte) : leNat [lo, hi] = le16 lo hi := by simp [leNat, le16]

theorem byteAt_append_left {a : Bytes} {k : Nat} (b : Bytes) (h : k < a.length) :
    byteAt (a ++ b) k = byteAt a k := by
  simp [byteAt, List.getD_eq_getElem?_getD, List.getElem?_append_left h]

theorem byteAt_append_right {a : Bytes} {k : Nat} (b : Bytes) (h : a.length ≤ k) :
    byteAt (a ++ b) k = byteAt b (k - a.length) := by
  simp [byteAt, List.getD_eq_getElem?_getD, List.getElem?_append_right h]

theorem slice_zero (s : Bytes) (j : Nat) : slice s 0 j = s.take j := by simp [slice]

theorem slice_append_left {a : Bytes} {j : Nat} (b : Bytes) (h : j ≤ a.length) :
    slice (a ++ b) 0 j = slice a 0 j := by
  simp [slice, List.take_append_of_le_length h]

/-- The declared length of a buffer does not depend on bytes appended after its header. -/
theorem declared_append {a : Bytes} (b : Bytes) (h : 7 ≤ a.length) : declared (a ++ b) = declared a := by
  simp [declared, byteAt_append_left b (show 5 < a.length by omega), byteAt_append_left b (show 6 < a.length by omega)]

theorem declared_le (f : Bytes) : declared f ≤ 65535 := by
  have := le16_lt (byteAt f 5) (byteAt f 6)
  simp only [declared]
  omega

theorem legalId_iff (id : Byte) : legalId id = true ↔ LegalPacketId id := by
  simp [legalId, LegalPacketId, broadcastId]

theorem legalId_eq_false (id : Byte) : legalId id = false ↔ ¬ LegalPacketId id := by
  rw [← legalId_iff]
  simp

end Sys2Proof.Machine
end

