-- ==== Sys2Proof/Laws/State.lean ====
section
/-! SUPPORT. One lemma per field per named update of the state, so that no proof unfolds a record update. -/

namespace Sys2Proof.Machine

@[simp] theorem withStatus_crcAcc (b : Block) (st : Status) : (b.withStatus st).crcAcc = b.crcAcc := rfl
@[simp] theorem withStatus_detState (b : Block) (st : Status) : (b.withStatus st).detState = b.detState := rfl
@[simp] theorem withStatus_detBuf (b : Block) (st : Status) : (b.withStatus st).detBuf = b.detBuf := rfl
@[simp] theorem withStatus_lastOp (b : Block) (st : Status) : (b.withStatus st).lastOp = b.lastOp := rfl
@[simp] theorem withStatus_lastValid (b : Block) (st : Status) : (b.withStatus st).lastValid = b.lastValid := rfl
@[simp] theorem withStatus_status (b : Block) (st : Status) : (b.withStatus st).status = st := rfl

@[simp] theorem withCrc_crcAcc (b : Block) (c : Half) : (b.withCrc c).crcAcc = c := rfl
@[simp] theorem withCrc_detState (b : Block) (c : Half) : (b.withCrc c).detState = b.detState := rfl
@[simp] theorem withCrc_detBuf (b : Block) (c : Half) : (b.withCrc c).detBuf = b.detBuf := rfl
@[simp] theorem withCrc_lastOp (b : Block) (c : Half) : (b.withCrc c).lastOp = b.lastOp := rfl
@[simp] theorem withCrc_lastValid (b : Block) (c : Half) : (b.withCrc c).lastValid = b.lastValid := rfl
@[simp] theorem withCrc_status (b : Block) (c : Half) : (b.withCrc c).status = b.status := rfl

@[simp] theorem withDetector_crcAcc (b : Block) (d : DetState) (buf : Bytes) :
    (b.withDetector d buf).crcAcc = b.crcAcc := rfl
@[simp] theorem withDetector_detState (b : Block) (d : DetState) (buf : Bytes) :
    (b.withDetector d buf).detState = d := rfl
@[simp] theorem withDetector_detBuf (b : Block) (d : DetState) (buf : Bytes) :
    (b.withDetector d buf).detBuf = buf := rfl
@[simp] theorem withDetector_lastOp (b : Block) (d : DetState) (buf : Bytes) :
    (b.withDetector d buf).lastOp = b.lastOp := rfl
@[simp] theorem withDetector_lastValid (b : Block) (d : DetState) (buf : Bytes) :
    (b.withDetector d buf).lastValid = b.lastValid := rfl
@[simp] theorem withDetector_status (b : Block) (d : DetState) (buf : Bytes) :
    (b.withDetector d buf).status = b.status := rfl

@[simp] theorem recordInstruction_crcAcc (b : Block) (op : Byte) : (b.recordInstruction op).crcAcc = b.crcAcc := rfl
@[simp] theorem recordInstruction_detState (b : Block) (op : Byte) :
    (b.recordInstruction op).detState = b.detState := rfl
@[simp] theorem recordInstruction_detBuf (b : Block) (op : Byte) : (b.recordInstruction op).detBuf = b.detBuf := rfl
@[simp] theorem recordInstruction_lastOp (b : Block) (op : Byte) : (b.recordInstruction op).lastOp = op := rfl
@[simp] theorem recordInstruction_lastValid (b : Block) (op : Byte) :
    (b.recordInstruction op).lastValid = true := rfl
@[simp] theorem recordInstruction_status (b : Block) (op : Byte) : (b.recordInstruction op).status = b.status := rfl

@[simp] theorem finish_params (s : State) (b : Block) (r : Result) : (s.finish b r).params = s.params := rfl
@[simp] theorem finish_block (s : State) (b : Block) (r : Result) : (s.finish b r).block = b := rfl
@[simp] theorem finish_commands (s : State) (b : Block) (r : Result) : (s.finish b r).commands = s.commands := rfl
@[simp] theorem finish_result (s : State) (b : Block) (r : Result) : (s.finish b r).result = some r := rfl

@[simp] theorem accept_params (s : State) (rest : List Issue) : (s.accept rest).params = s.params := rfl
@[simp] theorem accept_block (s : State) (rest : List Issue) : (s.accept rest).block = s.block := rfl
@[simp] theorem accept_commands (s : State) (rest : List Issue) : (s.accept rest).commands = rest := rfl
@[simp] theorem accept_result (s : State) (rest : List Issue) : (s.accept rest).result = s.result := rfl

end Sys2Proof.Machine
end

