-- ==== Sys2Proof/Laws/Ops.lean ====
section
/-! SUPPORT. What the shared operations can do, said once: checks, lookups, success, error entry, and the step. -/

namespace Sys2Proof.Machine

theorem require_eq_ok {c : Bool} {r : Raise} {u : Unit} : require c r = .ok u ↔ c = true := by
  cases c <;> simp [require]

theorem require_eq_error {c : Bool} {r e : Raise} : require c r = .error e ↔ c = false ∧ r = e := by
  cases c <;> simp [require]

@[simp] theorem require_true (r : Raise) : require true r = .ok () := rfl

@[simp] theorem require_false (r : Raise) : require false r = .error r := rfl

@[simp] theorem except_bind_ok {α β : Type} (a : α) (f : α → Except Raise β) : (Except.ok a >>= f) = f a := rfl

@[simp] theorem except_bind_error {α β : Type} (e : Raise) (f : α → Except Raise β) :
    (Except.error e >>= f) = .error e := rfl

/-- A sequence of checks succeeds only through a success of its first part. -/
theorem bind_eq_ok {α β : Type} {x : Except Raise α} {f : α → Except Raise β} {b : β} :
    (x >>= f) = .ok b ↔ ∃ a, x = .ok a ∧ f a = .ok b := by
  cases x <;> simp

/-- A sequence of checks fails at its first part or after it. -/
theorem bind_eq_error {α β : Type} {x : Except Raise α} {f : α → Except Raise β} {e : Raise} :
    (x >>= f) = .error e ↔ x = .error e ∨ ∃ a, x = .ok a ∧ f a = .error e := by
  cases x <;> simp

theorem succeed_eq (s : State) (b : Block) (v : Answer) : s.succeed b v = .next (s.afterOk b v) := rfl

theorem raiseError_eq (s : State) (raw : Bytes) (r : Raise) :
    s.raiseError raw r = .next (s.afterError raw r) := rfl

@[simp] theorem answer_ok (s : State) (raw : Bytes) (b : Block) (v : Answer) :
    s.answer raw (.ok (b, v)) = .next (s.afterOk b v) := rfl

@[simp] theorem answer_error (s : State) (raw : Bytes) (r : Raise) :
    s.answer raw (.error r) = .next (s.afterError raw r) := rfl

/-- Everything a command's end can be: the state of a success or the state of an error. -/
theorem answer_cases {s t : State} {raw : Bytes} {r : Except Raise (Block × Answer)} (h : s.answer raw r = .next t) :
    (∃ b v, r = .ok (b, v) ∧ t = s.afterOk b v) ∨ (∃ e, r = .error e ∧ t = s.afterError raw e) := by
  cases r with
  | ok p =>
    obtain ⟨b, v⟩ := p
    exact .inl ⟨b, v, rfl, by simpa using h.symm⟩
  | error e => exact .inr ⟨e, rfl, by simpa using h.symm⟩

/-- A command's end is always a next state. -/
theorem answer_running (s : State) (raw : Bytes) (r : Except Raise (Block × Answer)) : Running (s.answer raw r) := by
  cases r with
  | ok p => exact ⟨_, rfl⟩
  | error e => exact ⟨_, rfl⟩

@[simp] theorem afterOk_params (s : State) (b : Block) (v : Answer) : (s.afterOk b v).params = s.params := rfl
@[simp] theorem afterOk_commands (s : State) (b : Block) (v : Answer) : (s.afterOk b v).commands = s.commands := rfl
@[simp] theorem afterOk_result (s : State) (b : Block) (v : Answer) : (s.afterOk b v).result = some (.ok v) := rfl
@[simp] theorem afterOk_block (s : State) (b : Block) (v : Answer) :
    (s.afterOk b v).block = { b with status := ⟨0x00, 0x00⟩ } := rfl
@[simp] theorem afterError_params (s : State) (raw : Bytes) (r : Raise) :
    (s.afterError raw r).params = s.params := rfl
@[simp] theorem afterError_commands (s : State) (raw : Bytes) (r : Raise) :
    (s.afterError raw r).commands = s.commands := rfl
@[simp] theorem afterError_result (s : State) (raw : Bytes) (r : Raise) :
    (s.afterError raw r).result = some (.err ⟨r.kind, r.sub, r.info, raw⟩) := rfl
@[simp] theorem afterError_block (s : State) (raw : Bytes) (r : Raise) :
    (s.afterError raw r).block = { s.block with status := ⟨r.kind.code, r.sub⟩ } := rfl

/-- A lookup by opcode finds an entry of the registry with that opcode. -/
theorem byOp_eq_ok {r : Registry} {op : Byte} {e : Entry} (h : byOp r op = .ok e) :
    e ∈ r.entries ∧ e.op = op := by
  unfold byOp at h
  split at h
  · rename_i e' he
    cases h
    exact ⟨List.mem_of_find?_eq_some he, by simpa using List.find?_some he⟩
  · cases h

/-- A lookup by name finds an entry of the registry with that name. -/
theorem byName_eq_ok {r : Registry} {nm : Name} {e : Entry} (h : byName r nm = .ok e) :
    e ∈ r.entries ∧ e.name = nm := by
  unfold byName at h
  split at h
  · rename_i e' he
    cases h
    exact ⟨List.mem_of_find?_eq_some he, by simpa using List.find?_some he⟩
  · cases h

/-- A lookup by opcode fails only with UnknownInstruction, when no entry has the opcode. -/
theorem byOp_eq_error {r : Registry} {op : Byte} {x : Raise} (h : byOp r op = .error x) :
    x = unknownOpcode op ∧ ∀ e ∈ r.entries, e.op ≠ op := by
  unfold byOp at h
  split at h
  · cases h
  · rename_i hn
    cases h
    exact ⟨rfl, by simpa using hn⟩

/-- A lookup by name fails only with UnknownInstruction, when no entry has the name. -/
theorem byName_eq_error {r : Registry} {nm : Name} {x : Raise} (h : byName r nm = .error x) :
    x = unknownName nm ∧ ∀ e ∈ r.entries, e.name ≠ nm := by
  unfold byName at h
  split at h
  · cases h
  · rename_i hn
    cases h
    exact ⟨rfl, by simpa using hn⟩

theorem distinctNames_iff (l : List Name) : distinctNames l = true ↔ l.Nodup := by
  induction l with
  | nil => simp [distinctNames]
  | cons x xs ih => simp [distinctNames, ih]

theorem distinctOps_iff (l : List Byte) : distinctOps l = true ↔ l.Nodup := by
  induction l with
  | nil => simp [distinctOps]
  | cons x xs ih => simp [distinctOps, ih]

theorem layoutOk_iff (lay : Layout) : layoutOk lay = true ↔ wfLayout lay = .ok () := by
  unfold layoutOk
  cases wfLayout lay <;> simp

/-- The layouts of a registry's entries are well-formed. -/
theorem registry_layouts {r : Registry} {e : Entry} (he : e ∈ r.entries) :
    wfLayout e.outLayout = .ok () ∧ wfLayout e.inLayout = .ok () := by
  have h := r.wf
  simp only [registryWf, Bool.and_eq_true, List.all_eq_true] at h
  have := h.2 e he
  exact ⟨(layoutOk_iff _).1 this.1, (layoutOk_iff _).1 this.2⟩

/-- No entry of a registry has the status opcode. -/
theorem registry_not_status {r : Registry} {e : Entry} (he : e ∈ r.entries) : e.op ≠ statusOp := by
  have h := r.wf
  simp only [registryWf, Bool.and_eq_true, List.all_eq_true] at h
  simpa using h.1.2 e he

/-- An entry of a registry is what a lookup of its opcode finds. -/
theorem byOp_of_mem {r : Registry} {e : Entry} (he : e ∈ r.entries) : byOp r e.op = .ok e := by
  have hwf := r.wf
  simp only [registryWf, Bool.and_eq_true] at hwf
  have hnd := (distinctOps_iff _).1 hwf.1.1.1
  cases h : byOp r e.op with
  | ok e' =>
    obtain ⟨hm, ho⟩ := byOp_eq_ok h
    rw [List.inj_on_of_nodup_map hnd hm he ho]
  | error x => exact absurd rfl ((byOp_eq_error h).2 e he)

/-- An entry of a registry is what a lookup of its name finds. -/
theorem byName_of_mem {r : Registry} {e : Entry} (he : e ∈ r.entries) : byName r e.name = .ok e := by
  have hwf := r.wf
  simp only [registryWf, Bool.and_eq_true] at hwf
  have hnd := (distinctNames_iff _).1 hwf.1.1.2
  cases h : byName r e.name with
  | ok e' =>
    obtain ⟨hm, ho⟩ := byName_eq_ok h
    rw [List.inj_on_of_nodup_map hnd hm he ho]
  | error x => exact absurd rfl ((byName_eq_error h).2 e he)

/-- Everything a step can do: wait, run the decoded instruction, or raise BadCommand. -/
theorem step_cases (s : State) :
    (s.commands = [] ∧ step s = .next s) ∨
    (∃ issue rest i, s.commands = issue :: rest ∧ decode issue = .ok i ∧ step s = exec i (s.accept rest)) ∨
    (∃ issue rest code, s.commands = issue :: rest ∧ decode issue = .error (.unassignedCode code) ∧
      step s = badCommand code (s.accept rest)) := by
  unfold step
  split
  · exact .inl ⟨by assumption, rfl⟩
  · rename_i issue rest hc
    split
    · exact .inr (.inl ⟨_, _, _, hc, by assumption, rfl⟩)
    · exact .inr (.inr ⟨_, _, _, hc, by assumption, rfl⟩)

end Sys2Proof.Machine
end

