-- ==== Sys2Proof/Laws/FieldCodec.lean ====
section
/-! SUPPORT. What the field codec's functions do, said once: the tags, the layout check, and the inversions of `pack` and
`unpack`. -/

namespace Sys2Proof.Machine

/-- The defined tag codes (R96). -/
theorem fieldKind_isSome_iff (t : Byte) : (fieldKind t).isSome = true ↔
    t ∈ ([0x01, 0x02, 0x04, 0x11, 0x12, 0x14, 0x20, 0x30] : List Byte) := by
  revert t
  decide

/-- Only the greedy tag is greedy (R96). -/
theorem isGreedy_iff (d : FieldDesc) : isGreedy d = true ↔ d.tag = 0x30 := by
  have : ∀ t : Byte, (fieldKind t == some .greedy) = true ↔ t = 0x30 := by decide
  exact this d.tag

/-- What `wf_layout` has checked of the rest of a layout when it succeeds (R171). -/
theorem wfLayoutFrom_cons {seen : List Name} {d : FieldDesc} {rest : Layout}
    (h : wfLayoutFrom seen (d :: rest) = .ok ()) :
    (fieldKind d.tag).isSome = true ∧ (isGreedy d = true → rest = []) ∧ d.name ∉ seen ∧
      wfLayoutFrom (d.name :: seen) rest = .ok () := by
  simp only [wfLayoutFrom] at h
  split at h
  · cases h
  · rename_i h1
    split at h
    · cases h
    · rename_i h2
      split at h
      · cases h
      · rename_i h3
        refine ⟨?_, ?_, ?_, h⟩
        · simpa [Option.isSome_iff_ne_none] using h1
        · intro hg
          simpa [hg] using h2
        · simpa using h3

/-- A successful `pack` has passed every check of R177, in order. -/
theorem pack_eq_ok {lay : Layout} {vals : Values} {out : Bytes} (h : pack lay vals = .ok out) :
    wfLayout lay = .ok () ∧ checkUnknown lay vals = .ok () ∧ checkDup [] vals = .ok () ∧
      checkMissing vals lay = .ok () ∧ packFields vals lay = .ok out := by
  unfold pack at h
  obtain ⟨⟨⟩, h1, h⟩ := bind_eq_ok.1 h
  obtain ⟨⟨⟩, h2, h⟩ := bind_eq_ok.1 h
  obtain ⟨⟨⟩, h3, h⟩ := bind_eq_ok.1 h
  obtain ⟨⟨⟩, h4, h⟩ := bind_eq_ok.1 h
  exact ⟨h1, h2, h3, h4, h⟩

/-- A successful `unpack` has passed the length checks of R178. -/
theorem unpack_eq_ok {lay : Layout} {buf : Bytes} {res : Values} :
    unpack lay buf = .ok res ↔ UnpackFits lay buf.length ∧ res = unpackFields lay buf := by
  unfold unpack UnpackFits
  constructor
  · intro h
    obtain ⟨⟨⟩, h1, h⟩ := bind_eq_ok.1 h
    obtain ⟨⟨⟩, h2, h⟩ := bind_eq_ok.1 h
    obtain ⟨⟨⟩, h3, h⟩ := bind_eq_ok.1 h
    have h2 := require_eq_ok.1 h2
    have h3 := require_eq_ok.1 h3
    simp only [decide_eq_true_eq, Bool.or_eq_true] at h2 h3
    refine ⟨⟨(layoutOk_iff lay).2 h1, h2, fun hg => ?_⟩, by cases h; rfl⟩
    rcases h3 with h3 | h3
    · rw [hg] at h3; cases h3
    · omega
  · rintro ⟨⟨h1, h2, h3⟩, rfl⟩
    rw [(layoutOk_iff lay).1 h1]
    have h4 : (greedyLayout lay || decide (buf.length ≤ fixedSize lay)) = true := by
      cases hg : greedyLayout lay
      · simp [h3 hg]
      · rfl
    simp [h2, h4]

/-- On a well-formed layout `unpack` fails only with PayloadLength (R178, R326). -/
theorem unpack_eq_error {lay : Layout} {buf : Bytes} {e : Raise} (hw : wfLayout lay = .ok ())
    (h : unpack lay buf = .error e) : e.kind = .payloadLength ∧ ¬ UnpackFits lay buf.length := by
  have hn : ¬ UnpackFits lay buf.length := fun hf => by
    rw [unpack_eq_ok.2 ⟨hf, rfl⟩] at h
    cases h
  refine ⟨?_, hn⟩
  unfold unpack at h
  rw [hw, except_bind_ok] at h
  rcases bind_eq_error.1 h with h | ⟨_, _, h⟩
  · rw [← (require_eq_error.1 h).2]; rfl
  · rcases bind_eq_error.1 h with h | ⟨_, _, h⟩
    · rw [← (require_eq_error.1 h).2]; rfl
    · cases h

/-- The value a list of pairs gives a name is the first one (R182). -/
theorem givenValue_eq_lookup (vals : Values) (nm : Name) : givenValue vals nm = lookupValue nm vals := by
  induction vals with
  | nil => rfl
  | cons p rest ih =>
    obtain ⟨k, v⟩ := p
    by_cases h : k = nm <;> simp [givenValue, lookupValue, h]
    simpa [givenValue] using ih

/-- A lookup fails exactly when no pair has the name. -/
theorem lookupValue_eq_none {vals : Values} {nm : Name} : lookupValue nm vals = none ↔ nm ∉ vals.map Prod.fst := by
  induction vals with
  | nil => simp [lookupValue]
  | cons p rest ih =>
    obtain ⟨k, v⟩ := p
    by_cases h : k = nm
    · simp [lookupValue, h]
    · simp only [lookupValue, h, if_false, ih, List.map_cons, List.mem_cons, not_or]
      constructor
      · exact fun h' => ⟨Ne.symm h, h'⟩
      · exact And.right

/-- A lookup that succeeds finds a pair of the list. -/
theorem lookupValue_mem {vals : Values} {nm : Name} {v : FieldValue} (h : lookupValue nm vals = some v) :
    (nm, v) ∈ vals := by
  induction vals with
  | nil => cases h
  | cons p rest ih =>
    obtain ⟨k, w⟩ := p
    by_cases hk : k = nm
    · subst hk; simp [lookupValue] at h; simp [h]
    · simp [lookupValue, hk] at h; exact List.mem_cons_of_mem _ (ih h)

/-- Where names are distinct a lookup finds the pair of the name. -/
theorem lookupValue_of_mem {vals : Values} {nm : Name} {v : FieldValue} (hd : (vals.map Prod.fst).Nodup)
    (h : (nm, v) ∈ vals) : lookupValue nm vals = some v := by
  cases hl : lookupValue nm vals with
  | none => exact absurd (List.mem_map_of_mem (f := Prod.fst) h) (lookupValue_eq_none.1 hl)
  | some w =>
    have := lookupValue_mem hl
    have := List.inj_on_of_nodup_map hd h this rfl
    simpa using (congrArg Prod.snd this).symm

/-- The type tags, case by case (R96). -/
theorem fieldKind_cases (t : Byte) :
    (fieldKind t = some (.int 1 false) ∧ t = 0x01) ∨ (fieldKind t = some (.int 2 false) ∧ t = 0x02) ∨
    (fieldKind t = some (.int 4 false) ∧ t = 0x04) ∨ (fieldKind t = some (.int 1 true) ∧ t = 0x11) ∨
    (fieldKind t = some (.int 2 true) ∧ t = 0x12) ∨ (fieldKind t = some (.int 4 true) ∧ t = 0x14) ∨
    (fieldKind t = some .fixed ∧ t = 0x20) ∨ (fieldKind t = some .greedy ∧ t = 0x30) ∨
    (fieldKind t = none ∧ t ∉ ([0x01, 0x02, 0x04, 0x11, 0x12, 0x14, 0x20, 0x30] : List Byte)) := by
  revert t; decide

/-- A legal value is encoded (R174, R175). -/
theorem packField_of_legal {d : FieldDesc} {v : FieldValue} (h : LegalValue d v) :
    packField d v = .ok (fieldBytes d v) := by
  unfold packField
  cases v with
  | int x =>
    simp only [LegalValue] at h
    rcases h with ⟨h, h1, h2⟩ | ⟨h, h1, h2⟩ | ⟨h, h1, h2⟩ | ⟨h, h1, h2⟩ | ⟨h, h1, h2⟩ | ⟨h, h1, h2⟩ <;>
      simp [h, fieldKind, inRange, fieldBytes, fieldWidth, h1] <;> omega
  | bytes b =>
    simp only [LegalValue] at h
    rcases h with ⟨h, h1⟩ | h
    · simp [h, fieldKind, fieldBytes, h1]
    · simp [h, fieldKind, fieldBytes]

/-- On a defined tag a value that is not legal raises its FieldValue error (R177). -/
theorem packField_of_not_legal {d : FieldDesc} {v : FieldValue} (hk : (fieldKind d.tag).isSome = true)
    (h : ¬ LegalValue d v) :
    packField d v = .error ⟨.fieldValue, valueFault d v, .name d.name⟩ := by
  obtain ⟨nm, tag, n⟩ := d
  rcases fieldKind_cases tag with ⟨k, t⟩ | ⟨k, t⟩ | ⟨k, t⟩ | ⟨k, t⟩ | ⟨k, t⟩ | ⟨k, t⟩ | ⟨k, t⟩ | ⟨k, t⟩ | ⟨k, t⟩
  case inr.inr.inr.inr.inr.inr.inr.inr => simp [k] at hk
  all_goals
    subst t
    cases v <;>
      simp [packField, fieldKind, valueFault, fieldError, FieldSub.code, LegalValue, inRange] at h ⊢ <;>
      (try exact h)

end Sys2Proof.Machine
end

