-- ==== Sys2Proof/Laws/Stuffing.lean ====
section
/-! SUPPORT. One step of the stuffing codec, and the span a frame carries. -/

namespace Sys2Proof.Machine

/-- From window state 0 no byte completes the pattern. -/
@[simp] theorem winStep_zero_unmatched (b : Byte) : (winStep .zero b).2 = false := by
  simp only [winStep]
  split <;> rfl

/-- A match happens exactly at the `FD` after two `FF`s, and leaves state 0. -/
theorem winStep_matched {w : Window} {b : Byte} (h : (winStep w b).2 = true) :
    w = .two ∧ b = 0xFD ∧ (winStep w b).1 = .zero := by
  cases w with
  | zero => simp at h
  | one =>
    simp only [winStep] at h
    split at h <;> cases h
  | two =>
    simp only [winStep] at h ⊢
    split at h
    · rename_i hb
      simp [hb]
    · split at h <;> cases h

@[simp] theorem stuff_nil (w : Window) : stuff w [] = ([], w) := rfl

theorem stuff_cons_matched {w : Window} {x : Byte} (xs : Bytes) (h : (winStep w x).2 = true) :
    stuff w (x :: xs) = (x :: escapeByte :: (stuff .zero xs).1, (stuff .zero xs).2) := by
  simp [stuff, h]

theorem stuff_cons_unmatched {w : Window} {x : Byte} (xs : Bytes) (h : (winStep w x).2 = false) :
    stuff w (x :: xs) = (x :: (stuff (winStep w x).1 xs).1, (stuff (winStep w x).1 xs).2) := by
  simp [stuff, h]

@[simp] theorem unstuff_nil (w : Window) (p : Bool) : unstuff w p [] = ⟨[], w, p, false⟩ := rfl

/-- A due escape is dropped. -/
@[simp] theorem unstuff_escape (w : Window) (ys : Bytes) :
    unstuff w true (escapeByte :: ys) = unstuff .zero false ys := by
  simp [unstuff]

theorem unstuff_cons_matched {w : Window} {y : Byte} (ys : Bytes) (h : (winStep w y).2 = true) :
    unstuff w false (y :: ys) = ⟨y :: (unstuff .zero true ys).out, (unstuff .zero true ys).wEnd,
      (unstuff .zero true ys).pEnd, (unstuff .zero true ys).esc⟩ := by
  simp [unstuff, h]

theorem unstuff_cons_unmatched {w : Window} {y : Byte} (ys : Bytes) (h : (winStep w y).2 = false) :
    unstuff w false (y :: ys) = ⟨y :: (unstuff (winStep w y).1 false ys).out,
      (unstuff (winStep w y).1 false ys).wEnd, (unstuff (winStep w y).1 false ys).pEnd,
      (unstuff (winStep w y).1 false ys).esc⟩ := by
  simp [unstuff, h]

/-- The stuffed span of a frame is INST followed by the stuffed params: INST is never displaced. -/
theorem stuffedSpan_eq (op : Byte) (params : Bytes) : stuffedSpan op params = op :: stuffedParams op params := by
  simp [stuffedSpan, stuffedParams, primedWindow, stuff_cons_unmatched]

theorem declaredLength_eq (op : Byte) (params : Bytes) :
    declaredLength op params = (stuffedParams op params).length + 3 := by
  simp [declaredLength, stuffedSpan_eq]

/-- A built frame, byte by byte. -/
theorem buildFrame_eq (op id : Byte) (params : Bytes) :
    buildFrame op id params = frameOf op id (stuffedParams op params) := by
  simp [buildFrame, frameCrc, frameBody, frameOf, stuffedSpan_eq, declaredLength_eq, hdr, leBytes, halfBytes_eq,
    lowByte, highByte]

/-- Frame offset 7 of a built frame is its opcode. -/
theorem buildFrame_inst (op id : Byte) (params : Bytes) : byteAt (buildFrame op id params) 7 = op := by
  simp [buildFrame_eq, frameOf, byteAt]

end Sys2Proof.Machine
end

