-- ==== Sys2Proof/Laws/Packet.lean ====
section
/-! SUPPORT. What opening, resolving and disassembling a frame, assembling one, and a push of the detector can do, said
once. -/

namespace Sys2Proof.Machine

/-- A frame that opens has passed the checks of R275 to R277, and what is left of it is its fixed offsets. -/
theorem openFrame_eq_ok {policy : CrcPolicy} {f : Bytes} {o : Opened} :
    openFrame policy f = .ok o ↔
      AcceptableFrame policy f ∧ o = ⟨byteAt f 4, byteAt f 7, (unstuffedParams f).out, carriedCrc f,
        decide (carriedCrc f = recomputedCrc f)⟩ := by
  have hc : computedCrc f = recomputedCrc f := by simp [computedCrc, recomputedCrc, slice_zero]
  unfold openFrame
  constructor
  · intro h
    obtain ⟨⟨⟩, h1, h⟩ := bind_eq_ok.1 h
    obtain ⟨⟨⟩, h2, h⟩ := bind_eq_ok.1 h
    obtain ⟨⟨⟩, h3, h⟩ := bind_eq_ok.1 h
    obtain ⟨⟨⟩, h4, h⟩ := bind_eq_ok.1 h
    obtain ⟨⟨⟩, h5, h⟩ := bind_eq_ok.1 h
    obtain ⟨⟨⟩, h6, h⟩ := bind_eq_ok.1 h
    rw [require_eq_ok] at h1 h2 h3 h4 h5 h6
    simp only [decide_eq_true_eq, Bool.and_eq_true, Bool.or_eq_true, beq_iff_eq, Bool.not_eq_true',
      Bool.or_eq_false_iff] at h1 h2 h3 h5 h6
    refine ⟨⟨h1, h2, h3, (legalId_iff _).1 h4, fun hs => ?_, h6⟩, ?_⟩
    · rcases h5 with h5 | h5
      · exact h5.trans hc
      · rw [hs] at h5; cases h5
    · cases h
      rw [hc]
      rfl
  · rintro ⟨ha, rfl⟩
    have h4 := (legalId_iff _).2 ha.id
    have h1 : decide (10 ≤ f.length) = true := decide_eq_true ha.long
    have h2 : (slice f 0 4 == hdr) = true := by simp [ha.header, hdr]
    have h3 : (decide (3 ≤ le16 (byteAt f 5) (byteAt f 6)) &&
        decide (f.length = le16 (byteAt f 5) (byteAt f 6) + 7)) = true := by
      simpa [declared] using ha.length
    have h5 : (receivedCrc f == computedCrc f || policy == .lenient) = true := by
      cases policy with
      | strict =>
        have : receivedCrc f = computedCrc f := (ha.crc rfl).trans hc.symm
        simp [this]
      | lenient => simp
    have h6 : (!((frameParams f).esc || (frameParams f).pEnd)) = true := by
      simpa [unstuffedParams, frameParams] using ha.escape
    simp only [h1, h2, h3, h4, h5, h6, require_true, except_bind_ok]
    rw [hc]
    rfl

/-- What a status frame's entry is: the registry's entry with the cell's opcode, the cell being set. -/
theorem statusEntry_eq_ok {p : Params} {b : Block} {e : Entry} :
    statusEntry p b = .ok e ↔ b.lastValid = true ∧ e ∈ p.registry.entries ∧ e.op = b.lastOp := by
  unfold statusEntry
  split
  · rename_i hv
    constructor
    · intro h
      exact ⟨hv, byOp_eq_ok h⟩
    · rintro ⟨-, hm, ho⟩
      rw [← ho]
      exact byOp_of_mem hm
  · rename_i hv
    simp [hv]

/-- Everything a resolution can be (R278). -/
theorem resolve_eq_ok {p : Params} {b : Block} {inst : Byte} {r : Resolved} (h : resolve p b inst = .ok r) :
    (inst = 0x55 ∧ ∃ e ∈ p.registry.entries, b.lastValid = true ∧ e.op = b.lastOp ∧
      r = ⟨.status, e.inLayout, statusName e⟩) ∨
    (inst ≠ 0x55 ∧ ∃ e ∈ p.registry.entries, e.op = inst ∧ r = ⟨.instruction, e.outLayout, instructionName e⟩) := by
  unfold resolve at h
  split at h
  · rename_i hi
    cases hs : statusEntry p b with
    | ok e =>
      rw [hs] at h
      cases h
      obtain ⟨hv, hm, ho⟩ := statusEntry_eq_ok.1 hs
      exact .inl ⟨hi, e, hm, hv, ho, rfl⟩
    | error x => rw [hs] at h; cases h
  · rename_i hi
    cases hs : byOp p.registry inst with
    | ok e =>
      rw [hs] at h
      cases h
      obtain ⟨hm, ho⟩ := byOp_eq_ok hs
      exact .inr ⟨hi, e, hm, ho, rfl⟩
    | error x => rw [hs] at h; cases h

theorem resolve_instruction {p : Params} {b : Block} {e : Entry} (he : e ∈ p.registry.entries) :
    resolve p b e.op = .ok ⟨.instruction, e.outLayout, instructionName e⟩ := by
  unfold resolve
  rw [if_neg (registry_not_status he), byOp_of_mem he]
  rfl

theorem resolve_status {p : Params} {b : Block} {e : Entry} (he : e ∈ p.registry.entries)
    (hv : b.lastValid = true) (ho : e.op = b.lastOp) :
    resolve p b 0x55 = .ok ⟨.status, e.inLayout, statusName e⟩ := by
  unfold resolve
  rw [if_pos (show (0x55 : Byte) = statusOp from rfl), statusEntry_eq_ok.2 ⟨hv, he, ho⟩]
  rfl

/-- A field decode succeeds exactly when the params fit the layout (R279). -/
theorem decodeFields_eq_ok {lay : Layout} {buf : Bytes} {res : Values} :
    decodeFields lay buf = .ok res ↔ UnpackFits lay buf.length ∧ res = unpackFields lay buf := by
  rw [← unpack_eq_ok]
  unfold decodeFields
  cases unpack lay buf <;> simp [Except.mapError]

/-- On a well-formed layout a field decode fails only with MalformedFrame PAYLOAD (R279). -/
theorem decodeFields_eq_error {lay : Layout} {buf : Bytes} {x : Raise} (hw : wfLayout lay = .ok ())
    (h : decodeFields lay buf = .error x) : x = malformed .payload ∧ ¬ UnpackFits lay buf.length := by
  unfold decodeFields at h
  cases hu : unpack lay buf with
  | ok r => rw [hu] at h; cases h
  | error y =>
    rw [hu] at h
    cases h
    obtain ⟨hk, hn⟩ := unpack_eq_error hw hu
    exact ⟨by simp [payloadError, hk], hn⟩

/-- Everything a successful DISASSEMBLE can do (R281): the frame is acceptable, its INST byte resolves, its params fit
the resolved layout, and only an instruction frame writes the correlation cell. -/
theorem disassemble_eq_ok {p : Params} {b c : Block} {f : Bytes} {v : Answer}
    (h : disassemble p b f = .ok (c, v)) :
    AcceptableFrame p.crcPolicy f ∧ ∃ r, resolve p b (byteAt f 7) = .ok r ∧
      UnpackFits r.layout (unstuffedParams f).out.length ∧ c = correlate b r.dir (byteAt f 7) ∧
      v = .packet { dir := r.dir, name := r.name, id := byteAt f 4,
                    fields := unpackFields r.layout (unstuffedParams f).out, raw := f, crc := carriedCrc f,
                    crcOk := decide (carriedCrc f = recomputedCrc f) } := by
  unfold disassemble at h
  obtain ⟨o, h1, h⟩ := bind_eq_ok.1 h
  obtain ⟨r, h2, h⟩ := bind_eq_ok.1 h
  obtain ⟨fs, h3, h⟩ := bind_eq_ok.1 h
  obtain ⟨ha, rfl⟩ := openFrame_eq_ok.1 h1
  obtain ⟨hf, rfl⟩ := decodeFields_eq_ok.1 h3
  cases h
  exact ⟨ha, r, h2, hf, rfl, rfl⟩

/-- A DISASSEMBLE of an acceptable frame that resolves and fits succeeds. -/
theorem disassemble_of_fits {p : Params} {b : Block} {f : Bytes} {r : Resolved}
    (ha : AcceptableFrame p.crcPolicy f) (hr : resolve p b (byteAt f 7) = .ok r)
    (hf : UnpackFits r.layout (unstuffedParams f).out.length) :
    disassemble p b f = .ok (correlate b r.dir (byteAt f 7),
      .packet { dir := r.dir, name := r.name, id := byteAt f 4,
                fields := unpackFields r.layout (unstuffedParams f).out, raw := f, crc := carriedCrc f,
                crcOk := decide (carriedCrc f = recomputedCrc f) }) := by
  unfold disassemble
  rw [openFrame_eq_ok.2 ⟨ha, rfl⟩]
  simp only [except_bind_ok]
  rw [hr]
  simp only [except_bind_ok]
  rw [decodeFields_eq_ok.2 ⟨hf, rfl⟩]
  rfl

/-- Everything a successful ASSEMBLE can do (R273). -/
theorem assemble_eq_ok {p : Params} {b c : Block} {iname : Name} {id : Byte} {vals : Values} {v : Answer}
    (h : assemble p b iname id vals = .ok (c, v)) :
    ∃ e ∈ p.registry.entries, e.name = iname ∧ LegalPacketId id ∧ ∃ params, pack e.outLayout vals = .ok params ∧
      declaredLength e.op params ≤ 0xFFFF ∧ c = b.recordInstruction e.op ∧ v = assembledPacket e id params vals := by
  unfold assemble at h
  obtain ⟨e, h1, h⟩ := bind_eq_ok.1 h
  obtain ⟨⟨⟩, h2, h⟩ := bind_eq_ok.1 h
  obtain ⟨params, h3, h⟩ := bind_eq_ok.1 h
  obtain ⟨⟨⟩, h4, h⟩ := bind_eq_ok.1 h
  rw [require_eq_ok] at h2 h4
  cases h
  obtain ⟨hm, hn⟩ := byName_eq_ok h1
  exact ⟨e, hm, hn, (legalId_iff id).1 h2, params, h3, of_decide_eq_true h4, rfl, rfl⟩

/-- Everything a push can do (R240 to R245): refuse the byte at COMPLETE, or move as the phase says. -/
theorem detPush_cases (d : DetState) (buf : Bytes) (b : Byte) :
    (d = .complete ∧ detPush d buf b = .error (detectorBusy b)) ∨
    ((d = .idle ∨ d = .starting) ∧ detPush d buf b = .ok (detHeaderPush buf b)) ∨
    (d = .inProgress ∧ detPush d buf b = .ok (detBodyPush buf b)) := by
  cases d <;> simp [detPush]

/-- DET_PUSH's end state, from the transition function (R248). -/
theorem exec_detPush (b : Byte) (s : State) : exec (.detPush b) s =
   (match detPush s.block.detState s.block.detBuf b with
    | .ok r => .next (s.afterOk { s.block with detState := r.1, detBuf := r.2 } (.detState r.1))
    | .error e => .next (s.afterError [] e)) := by
  simp only [exec, execDetPush]
  cases detPush s.block.detState s.block.detBuf b with
  | ok r => obtain ⟨d, bf⟩ := r; rfl
  | error e => rfl

/-- A push that succeeds goes on to the rest of the chunk (R250). -/
theorem detFeed_cons_ok {b : Byte} {bs : Bytes} {s : State} {r : DetState × Bytes}
    (h : detPush s.block.detState s.block.detBuf b = .ok r) :
    detFeed (b :: bs) s = detFeed bs (s.afterOk { s.block with detState := r.1, detBuf := r.2 } (.detState r.1)) := by
  have := exec_detPush b s
  simp only [exec, h] at this
  simp only [detFeed, this]
  rw [if_neg]
  simp; decide

/-- A push that is refused ends the chunk (R103). -/
theorem detFeed_cons_error {b : Byte} {bs : Bytes} {s : State} {e : Raise}
    (h : detPush s.block.detState s.block.detBuf b = .error e) :
    detFeed (b :: bs) s = (s.afterError [] e, b :: bs) := by
  have he : e = detectorBusy b := by
    rcases detPush_cases s.block.detState s.block.detBuf b with ⟨_, h'⟩ | ⟨_, h'⟩ | ⟨_, h'⟩ <;>
      rw [h'] at h <;> cases h
    rfl
  have := exec_detPush b s
  simp only [exec, h] at this
  simp only [detFeed, this]
  rw [if_pos]
  subst he; rfl

end Sys2Proof.Machine
end

