-- ==== Sys2Proof/Laws/PerInstr.lean ====
section
/-! SUPPORT. The family of per-instruction lemmas: what the host issues for an instruction carries the opcode of the
instruction's row in the opcode table. -/

namespace Sys2Proof.Laws

open Machine

/-- The `match` value of an instruction's row in spec/opcode_table.json (R92, R99). -/
def rowOpcode : Instr → Byte
  | .crc16 _ _ => 0x01
  | .crcFeed _ => 0x02
  | .stuff _ _ => 0x10
  | .unstuff _ _ _ => 0x11
  | .pack _ _ => 0x20
  | .unpack _ _ => 0x21
  | .getField _ _ => 0x22
  | .detPush _ => 0x30
  | .detClear => 0x31
  | .assemble _ _ _ => 0x40
  | .disassemble _ => 0x41
  | .reset => 0xF0
  | .status _ _ => 0x55
  | .ping _ => 0x01
  | .read _ _ _ => 0x02
  | .write _ _ _ => 0x03
  | .regWrite _ _ _ => 0x04
  | .action _ => 0x05
  | .factoryReset _ _ => 0x06
  | .reboot _ => 0x08
  | .clear _ _ _ => 0x10
  | .syncRead _ _ _ _ => 0x82
  | .syncWrite _ _ _ _ => 0x83
  | .bulkRead _ _ => 0x92
  | .bulkWrite _ _ => 0x93

/-- The byte the table's `match` applies to: the code of a command (R90), offset 7 of a frame (R99). -/
def matchedByte : Issue → Byte
  | .command c => c.code
  | .frame f => byteAt f 7

/-- The encoding of the instruction carries its row's opcode where the table looks for it. -/
def OpcodeInPlace.Statement (i : Instr) : Prop := matchedByte (encode i) = rowOpcode i

namespace OpcodeInPlace

theorem crc16 (seed : Half) (data : Bytes) : Statement (.crc16 seed data) := rfl
theorem crcFeed (data : Bytes) : Statement (.crcFeed data) := rfl
theorem stuff (w0 : BitVec 2) (data : Bytes) : Statement (.stuff w0 data) := rfl
theorem unstuff (w0 : BitVec 2) (p0 : Bool) (data : Bytes) : Statement (.unstuff w0 p0 data) := rfl
theorem pack (layout : Layout) (values : Values) : Statement (.pack layout values) := rfl
theorem unpack (layout : Layout) (data : Bytes) : Statement (.unpack layout data) := rfl
theorem getField (values : Values) (fname : Name) : Statement (.getField values fname) := rfl
theorem detPush (b : Byte) : Statement (.detPush b) := rfl
theorem detClear : Statement .detClear := rfl
theorem assemble (iname : Name) (id : Byte) (values : Values) : Statement (.assemble iname id values) := rfl
theorem disassemble (frame : Bytes) : Statement (.disassemble frame) := rfl
theorem reset : Statement .reset := rfl
theorem status (id : Byte) (params : Bytes) : Statement (.status id params) := buildFrame_inst _ _ _
theorem ping (id : Byte) : Statement (.ping id) := buildFrame_inst _ _ _
theorem read (id : Byte) (address length : Half) : Statement (.read id address length) := buildFrame_inst _ _ _
theorem write (id : Byte) (address : Half) (data : Bytes) : Statement (.write id address data) :=
  buildFrame_inst _ _ _
theorem regWrite (id : Byte) (address : Half) (data : Bytes) : Statement (.regWrite id address data) :=
  buildFrame_inst _ _ _
theorem action (id : Byte) : Statement (.action id) := buildFrame_inst _ _ _
theorem factoryReset (id option : Byte) : Statement (.factoryReset id option) := buildFrame_inst _ _ _
theorem reboot (id : Byte) : Statement (.reboot id) := buildFrame_inst _ _ _
theorem clear (id option : Byte) (key : Bytes) : Statement (.clear id option key) := buildFrame_inst _ _ _
theorem syncRead (id : Byte) (address length : Half) (ids : Bytes) : Statement (.syncRead id address length ids) :=
  buildFrame_inst _ _ _
theorem syncWrite (id : Byte) (address length : Half) (data : Bytes) :
    Statement (.syncWrite id address length data) := buildFrame_inst _ _ _
theorem bulkRead (id : Byte) (data : Bytes) : Statement (.bulkRead id data) := buildFrame_inst _ _ _
theorem bulkWrite (id : Byte) (data : Bytes) : Statement (.bulkWrite id data) := buildFrame_inst _ _ _

end OpcodeInPlace

end Sys2Proof.Laws
end

