-- ==== Sys2Proof/Machine/Text.lean ====
section
/-! DEFINITION. The textual form of a command (spec/30_encoding.md R102), as the spec's vectors and examples write it.
A layout that holds an undefined tag has no text, and neither has a wire frame. -/

namespace Sys2Proof.Machine

/-- One hexadecimal digit. -/
def hexDigit (n : Nat) : Char := ['0', '1', '2', '3', '4', '5', '6', '7', '8', '9', 'A', 'B', 'C', 'D', 'E', 'F'].getD n '0'

/-- A byte as two hexadecimal digits. -/
def byteText (b : Byte) : String := String.ofList [hexDigit (b.toNat / 16), hexDigit (b.toNat % 16)]

/-- Words with a separator between them. -/
def joinText (sep : String) : List String → String
  | [] => ""
  | [x] => x
  | x :: y :: rest => x ++ sep ++ joinText sep (y :: rest)

/-- `"[" HEX HEX ... "]"`. -/
def bytesText (bs : Bytes) : String := "[" ++ joinText " " (bs.map byteText) ++ "]"

/-- A byte operand, in hexadecimal. -/
def byteOperandText (b : Byte) : String := "0x" ++ byteText b

/-- A u16 operand, in hexadecimal. -/
def halfText (x : Half) : String := "0x" ++ byteText ((x >>> 8).setWidth 8) ++ byteText (x.setWidth 8)

/-- Text between curly brackets. -/
def braced (t : String) : String := String.singleton (Char.ofNat 123) ++ t ++ String.singleton (Char.ofNat 125)

/-- The name of a tag; an undefined tag has none (R96). -/
def tagText (d : FieldDesc) : Option String :=
  if d.tag = 0x01 then some "u8"
  else if d.tag = 0x02 then some "u16"
  else if d.tag = 0x04 then some "u32"
  else if d.tag = 0x11 then some "s8"
  else if d.tag = 0x12 then some "s16"
  else if d.tag = 0x14 then some "s32"
  else if d.tag = 0x20 then some ("bytes(" ++ toString d.n.toNat ++ ")")
  else if d.tag = 0x30 then some "greedy"
  else none

/-- The descriptors of a layout, in order. -/
def descTexts : Layout → Option (List String)
  | [] => some []
  | d :: rest =>
    match tagText d, descTexts rest with
    | some t, some ts => some ((d.name ++ ":" ++ t) :: ts)
    | _, _ => none

/-- A layout operand. -/
def layoutText (lay : Layout) : Option String := (descTexts lay).map fun ts => braced (joinText ", " ts)

/-- A field value. -/
def valueText : FieldValue → String
  | .int v => toString v
  | .bytes b => bytesText b

/-- A `values` operand. -/
def valuesText (vals : Values) : String :=
  braced (joinText ", " (vals.map fun p => p.1 ++ "=" ++ valueText p.2))

/-- The window operand `w=0` to `w=3`. -/
def windowText (w0 : BitVec 2) : String := "w=" ++ toString w0.toNat

/-- The pending operand `p=0` or `p=1`. -/
def pendingText (p0 : Bool) : String := if p0 then "p=1" else "p=0"

/-- The text of a command (R102). -/
def commandText : Instr → Option String
  | .crc16 seed data => some ("CRC16 " ++ halfText seed ++ ", " ++ bytesText data)
  | .crcFeed data => some ("CRC_FEED " ++ bytesText data)
  | .stuff w0 data => some ("STUFF " ++ windowText w0 ++ ", " ++ bytesText data)
  | .unstuff w0 p0 data =>
    some ("UNSTUFF " ++ windowText w0 ++ ", " ++ pendingText p0 ++ ", " ++ bytesText data)
  | .pack layout values => (layoutText layout).map fun t => "PACK " ++ t ++ ", " ++ valuesText values
  | .unpack layout data => (layoutText layout).map fun t => "UNPACK " ++ t ++ ", " ++ bytesText data
  | .getField values fname => some ("GET_FIELD " ++ valuesText values ++ ", " ++ fname)
  | .detPush b => some ("DET_PUSH " ++ byteOperandText b)
  | .detClear => some "DET_CLEAR"
  | .assemble iname id values =>
    some ("ASSEMBLE " ++ iname ++ ", " ++ byteOperandText id ++ ", " ++ valuesText values)
  | .disassemble frame => some ("DISASSEMBLE " ++ bytesText frame)
  | .reset => some "RESET"
  | .status _ _ => none
  | .ping _ => none
  | .read _ _ _ => none
  | .write _ _ _ => none
  | .regWrite _ _ _ => none
  | .action _ => none
  | .factoryReset _ _ => none
  | .reboot _ => none
  | .clear _ _ _ => none
  | .syncRead _ _ _ _ => none
  | .syncWrite _ _ _ _ => none
  | .bulkRead _ _ => none
  | .bulkWrite _ _ => none

end Sys2Proof.Machine
end

