-- ==== Sys2Proof/Tests/Slice0.lean ====
section
/-! SUPPORT. The model's own tests: ill-formed instructions refused, every constructor decoded from a word written out
from the spec's encoding of it, one-step results taken from the vectors of spec/95_test_vectors.md (named V<n>), and for
every obligation with hypotheses a witness that they can be met. -/

namespace Sys2Proof.Tests

open Machine

/-- The result a step answers. -/
def resultOf (o : Host.Outcome State Fault Refusal) : Option Result :=
  match o with
  | .next t => t.result
  | .fault _ => none
  | .refused _ => none

/-- The architectural state a step leaves. -/
def blockOf (o : Host.Outcome State Fault Refusal) : Option Block :=
  match o with
  | .next t => some t.block
  | .fault _ => none
  | .refused _ => none

/-- The reset state with one command issued. -/
def issued (c : Command) : State := { State.reset with commands := [.command c] }

/-- The reset state with the correlation cell set. -/
def primed (op : Byte) : State := { State.reset with block := { Block.reset with lastOp := op, lastValid := true } }

/-- The reset state with a detector. -/
def detecting (d : DetState) (buf : Bytes) : State :=
  { State.reset with block := { Block.reset with detState := d, detBuf := buf } }

/-- `Ok(v)`. -/
def okay (v : Answer) : Option Result := some (.ok v)

/-- `Err(kind, sub, info)` with no raw bytes. -/
def failed (k : ErrorKind) (sub : Byte) (info : Info) : Option Result := some (.err ⟨k, sub, info, []⟩)

/-- The ping frame of V40. -/
def pingFrame : Bytes := [0xFF, 0xFF, 0xFD, 0x00, 0x01, 0x03, 0x00, 0x01, 0x19, 0x4E]

/-- The ping status frame of V1. -/
def pingStatus : Bytes := [0xFF, 0xFF, 0xFD, 0x00, 0x01, 0x07, 0x00, 0x55, 0x00, 0x06, 0x04, 0x26, 0x65, 0x5D]

/-- V1's frame with a wrong CRC (V88). -/
def badCrcStatus : Bytes := [0xFF, 0xFF, 0xFD, 0x00, 0x01, 0x07, 0x00, 0x55, 0x00, 0x06, 0x04, 0x26, 0x66, 0x5D]

/-- The read frame of V42. -/
def readFrame : Bytes := [0xFF, 0xFF, 0xFD, 0x00, 0x01, 0x07, 0x00, 0x02, 0x84, 0x00, 0x04, 0x00, 0x1D, 0x15]

/-- The fields of V1. -/
def pingFields : Values := [("error", .int 0), ("model_number", .int 1030), ("firmware_version", .int 38)]

/-- The packet record of V1. -/
def pingStatusPacket : Packet :=
  { dir := .status, name := "status_ping", id := 0x01, fields := pingFields, raw := pingStatus, crc := 0x5D65,
    crcOk := true }

/-- The layout `{address:u16, length:u16}`. -/
def addressLength : Layout := [u16Field "address", u16Field "length"]

/-- The layout `{a:greedy, b:u8}` of V6. -/
def greedyFirst : Layout := [greedyField "a", u8Field "b"]

/-! ### Well-formedness: one ill-formed term for each check -/

theorem test_illFormed_stuff_window : (Instr.stuff 3 []).wellFormed = false := by decide
theorem test_illFormed_unstuff_window : (Instr.unstuff 3 false []).wellFormed = false := by decide
theorem test_illFormed_id_fd : (Instr.ping 0xFD).wellFormed = false := by decide
theorem test_illFormed_id_ff : (Instr.status 0xFF []).wellFormed = false := by decide
theorem test_illFormed_clear_key : (Instr.clear 0x01 0x01 [0x44]).wellFormed = false := by decide

/-- A span of zeros stuffs to itself (R142). -/
theorem stuff_zeros (n : Nat) : stuff .zero (List.replicate n 0x00) = (List.replicate n 0x00, .zero) := by
  induction n with
  | zero => rfl
  | succ n ih =>
    rw [List.replicate_succ, stuff_cons_unmatched _ (winStep_zero_unmatched _), show (winStep .zero 0x00).1 = .zero from rfl, ih]

/-- The declared length of a frame whose params are zeros. -/
theorem declaredLength_zeros (n : Nat) : declaredLength 0x92 (List.replicate n 0x00) = n + 3 := by
  rw [declaredLength_eq, stuffedParams, show primedWindow 0x92 = .zero from rfl, stuff_zeros]
  simp

theorem test_wellFormed_longest : (Instr.bulkRead 0xFE (List.replicate 65532 0x00)).wellFormed = true := by
  simp only [Instr.wellFormed, frameWellFormed, declaredLength_zeros]
  decide
theorem test_illFormed_too_long : (Instr.bulkRead 0xFE (List.replicate 65533 0x00)).wellFormed = false := by
  simp only [Instr.wellFormed, frameWellFormed, declaredLength_zeros]
  decide

/-! ### Decoding: every constructor from a word of the spec's encodings (R92; V40 to V55) -/

theorem test_decode_crc16 :
    decode (.command { code := 0x01, seed := 0xFFFF, data := [0x00] }) = .ok (.crc16 0xFFFF [0x00]) := by decide
theorem test_decode_crcFeed : decode (.command { code := 0x02, data := [0x01] }) = .ok (.crcFeed [0x01]) := by decide
theorem test_decode_stuff :
    decode (.command { code := 0x10, w0 := 1, data := [0xFD] }) = .ok (.stuff 1 [0xFD]) := by decide
theorem test_decode_unstuff :
    decode (.command { code := 0x11, w0 := 2, p0 := true, data := [0xFD] }) = .ok (.unstuff 2 true [0xFD]) := by decide
theorem test_decode_pack : decode (.command { code := 0x20, layout := [u8Field "a"], values := [("a", .int 1)] }) =
    .ok (.pack [u8Field "a"] [("a", .int 1)]) := by decide
theorem test_decode_unpack : decode (.command { code := 0x21, layout := [u8Field "a"], data := [0x01] }) =
    .ok (.unpack [u8Field "a"] [0x01]) := by decide
theorem test_decode_getField : decode (.command { code := 0x22, values := [("a", .int 1)], fname := "a" }) =
    .ok (.getField [("a", .int 1)] "a") := by decide
theorem test_decode_detPush : decode (.command { code := 0x30, b := 0xFD }) = .ok (.detPush 0xFD) := by decide
theorem test_decode_detClear : decode (.command { code := 0x31 }) = .ok .detClear := by decide
theorem test_decode_assemble : decode (.command { code := 0x40, iname := "ping", id := 0x01 }) =
    .ok (.assemble "ping" 0x01 []) := by decide
theorem test_decode_disassemble :
    decode (.command { code := 0x41, frame := [0xFF] }) = .ok (.disassemble [0xFF]) := by decide
theorem test_decode_reset : decode (.command { code := 0xF0 }) = .ok .reset := by decide
theorem test_decode_unassigned : decode (.command { code := 0x42 }) = .error (.unassignedCode 0x42) := by decide
theorem test_decode_status : decode (.frame pingStatus) = .ok (.status 0x01 [0x00, 0x06, 0x04, 0x26]) := by decide
theorem test_decode_ping : decode (.frame pingFrame) = .ok (.ping 0x01) := by decide
theorem test_decode_read : decode (.frame readFrame) = .ok (.read 0x01 132 4) := by decide
theorem test_decode_write : decode (.frame
    [0xFF, 0xFF, 0xFD, 0x00, 0x01, 0x09, 0x00, 0x03, 0x00, 0x01, 0xFF, 0xFF, 0xFD, 0xFD, 0xCD, 0x65]) =
    .ok (.write 0x01 0x0100 [0xFF, 0xFF, 0xFD]) := by decide
theorem test_decode_regWrite : decode (.frame
    [0xFF, 0xFF, 0xFD, 0x00, 0x01, 0x09, 0x00, 0x04, 0x74, 0x00, 0x00, 0x02, 0x00, 0x00, 0xB9, 0x0E]) =
    .ok (.regWrite 0x01 116 [0x00, 0x02, 0x00, 0x00]) := by decide
theorem test_decode_action : decode (.frame [0xFF, 0xFF, 0xFD, 0x00, 0xFE, 0x03, 0x00, 0x05, 0x2A, 0xC2]) =
    .ok (.action 0xFE) := by decide
theorem test_decode_factoryReset : decode (.frame
    [0xFF, 0xFF, 0xFD, 0x00, 0x01, 0x04, 0x00, 0x06, 0xFF, 0xA6, 0x64]) = .ok (.factoryReset 0x01 0xFF) := by decide
theorem test_decode_reboot : decode (.frame [0xFF, 0xFF, 0xFD, 0x00, 0x01, 0x03, 0x00, 0x08, 0x2F, 0x4E]) =
    .ok (.reboot 0x01) := by decide
theorem test_decode_clear : decode (.frame
    [0xFF, 0xFF, 0xFD, 0x00, 0x01, 0x08, 0x00, 0x10, 0x01, 0x44, 0x58, 0x4C, 0x22, 0xB1, 0xDC]) =
    .ok (.clear 0x01 0x01 [0x44, 0x58, 0x4C, 0x22]) := by decide
theorem test_decode_syncRead : decode (.frame
    [0xFF, 0xFF, 0xFD, 0x00, 0xFE, 0x09, 0x00, 0x82, 0x84, 0x00, 0x04, 0x00, 0x01, 0x02, 0xCE, 0xFA]) =
    .ok (.syncRead 0xFE 132 4 [0x01, 0x02]) := by decide
set_option maxRecDepth 2000 in
theorem test_decode_syncWrite : decode (.frame
    [0xFF, 0xFF, 0xFD, 0x00, 0xFE, 0x11, 0x00, 0x83, 0x74, 0x00, 0x04, 0x00, 0x01, 0x96, 0x00, 0x00, 0x00, 0x02,
     0x96, 0x00, 0x00, 0x00, 0x88, 0xB7]) =
    .ok (.syncWrite 0xFE 116 4 [0x01, 0x96, 0x00, 0x00, 0x00, 0x02, 0x96, 0x00, 0x00, 0x00]) := by decide
set_option maxRecDepth 2000 in
theorem test_decode_bulkRead : decode (.frame
    [0xFF, 0xFF, 0xFD, 0x00, 0xFE, 0x0D, 0x00, 0x92, 0x01, 0x84, 0x00, 0x04, 0x00, 0x02, 0x84, 0x00, 0x04, 0x00,
     0xFC, 0x5A]) =
    .ok (.bulkRead 0xFE [0x01, 0x84, 0x00, 0x04, 0x00, 0x02, 0x84, 0x00, 0x04, 0x00]) := by decide
set_option maxRecDepth 2000 in
theorem test_decode_bulkWrite : decode (.frame
    [0xFF, 0xFF, 0xFD, 0x00, 0xFE, 0x0C, 0x00, 0x93, 0x01, 0x74, 0x00, 0x04, 0x00, 0x96, 0x00, 0x00, 0x00, 0x43,
     0x92]) =
    .ok (.bulkWrite 0xFE [0x01, 0x74, 0x00, 0x04, 0x00, 0x96, 0x00, 0x00, 0x00]) := by decide
/-- A frame that is no row of the table is the operand of a DISASSEMBLE (V77's frame). -/
theorem test_decode_other_frame :
    decode (.frame [0xFF, 0xFF, 0xFD, 0x00, 0x01, 0x03, 0x00, 0x7F, 0x1D, 0x4F]) =
      .ok (.disassemble [0xFF, 0xFF, 0xFD, 0x00, 0x01, 0x03, 0x00, 0x7F, 0x1D, 0x4F]) := by decide

/-- Words of the opcode table alone, operands zero. -/
theorem test_tableWord_crc16 : decodeTableWord 8 0x01 = some (.crc16 0 []) := by decide
theorem test_tableWord_write : decodeTableWord 8 0x03 = some (.write 0 0 []) := by decide
theorem test_tableWord_unassigned : decodeTableWord 8 0x42 = none := by decide

/-! ### One step, by the vectors -/

theorem test_crc16_check_value : resultOf (step (issued { code := 0x01, data :=
    [0x31, 0x32, 0x33, 0x34, 0x35, 0x36, 0x37, 0x38, 0x39] })) = okay (.crc 0xFEE8) := by decide
theorem test_crc16_seed : resultOf (exec (.crc16 0xFFFF [0x00]) State.reset) = okay (.crc 0xFD02) := by decide
/-- V19: the header's CRC, then the rest of the frame. -/
theorem test_crcFeed_continues : resultOf (exec (.crcFeed [0x01, 0x03, 0x00, 0x01])
    { State.reset with block := { Block.reset with crcAcc := 0x0E28 } }) = okay (.crc 0x4E19) := by decide
/-- V23, V25. -/
theorem test_stuff_marker : resultOf (exec (.stuff 0 [0xFF, 0xFF, 0xFD, 0x00]) State.reset) =
    okay (.stuffed [0xFF, 0xFF, 0xFD, 0xFD, 0x00] .zero) := by decide
theorem test_stuff_primed : resultOf (exec (.stuff 1 [0xFF, 0xFD]) State.reset) =
    okay (.stuffed [0xFF, 0xFD, 0xFD] .zero) := by decide
/-- V32, V37. -/
theorem test_unstuff_missing : resultOf (exec (.unstuff 0 false [0xFF, 0xFF, 0xFD, 0x00]) State.reset) =
    okay (.unstuffed [0xFF, 0xFF, 0xFD, 0x00] .zero false true) := by decide
theorem test_unstuff_one_escape : resultOf (exec (.unstuff 0 false [0xFF, 0xFF, 0xFD, 0xFD, 0xFD]) State.reset) =
    okay (.unstuffed [0xFF, 0xFF, 0xFD, 0xFD] .zero false false) := by decide
/-- V101, V114. -/
theorem test_pack_signed : resultOf (exec (.pack [s8Field "a", s16Field "b", s32Field "c"]
    [("a", .int (-1)), ("b", .int (-2)), ("c", .int (-2147483648))]) State.reset) =
    okay (.bytes [0xFF, 0xFE, 0xFF, 0x00, 0x00, 0x00, 0x80]) := by decide
theorem test_pack_unknown_first : resultOf (exec (.pack addressLength
    [("x", .int 1), ("address", .int 1), ("address", .int 2)]) State.reset) =
    failed .unknownField 0 (.name "x") := by decide
/-- V122, V118. -/
theorem test_unpack_signed : resultOf (exec (.unpack [s16Field "a", s32Field "b"]
    [0xFE, 0xFF, 0x00, 0x00, 0x00, 0x80]) State.reset) =
    okay (.values [("a", .int (-2)), ("b", .int (-2147483648))]) := by decide
theorem test_unpack_short : resultOf (exec (.unpack [u8Field "e", u16Field "m", u8Field "f"] [0x00, 0x06, 0x04])
    State.reset) = some (.err ⟨.payloadLength, 1, .none, [0x00, 0x06, 0x04]⟩) := by decide
/-- V130, V131. -/
theorem test_getField_first : resultOf (exec (.getField [("a", .int 1), ("a", .int 2)] "a") State.reset) =
    okay (.value (.int 1)) := by decide
theorem test_getField_none : resultOf (exec (.getField [] "a") State.reset) =
    failed .unknownField 0 (.name "a") := by decide
/-- V64, V65. -/
theorem test_detPush_busy : resultOf (exec (.detPush 0xAA)
    (detecting .complete [0xFF, 0xFF, 0xFD, 0x00, 0x01, 0x00, 0x00])) = failed .detectorBusy 0 (.byte 0xAA) := by decide
theorem test_detPush_restart : resultOf (exec (.detPush 0xFF) (detecting .inProgress [0xFF, 0xFF, 0xFD])) =
    okay (.detState .starting) := by decide
/-- V62, V61: two stray bytes, and one. -/
theorem test_detFeed_even : (detFeed ([0xFF, 0xFF] ++ pingFrame) State.reset).1.block.detBuf = pingFrame := by decide
theorem test_detFeed_odd : (detFeed ([0xFF] ++ pingFrame) State.reset).1.block.detState = .idle := by decide
theorem test_detClear : blockOf (exec .detClear (detecting .complete pingFrame)) = some Block.reset := by decide
/-- V40, V150. -/
theorem test_assemble_ping : resultOf (exec (.assemble "ping" 0x01 []) State.reset) = okay (.assembled pingFrame
    { dir := .instruction, name := "instruction_ping", id := 0x01, fields := [], raw := pingFrame, crc := 0x4E19,
      crcOk := true }) := by decide
theorem test_assemble_id_first : resultOf (exec (.assemble "read" 0xFD [("x", .int 1)]) State.reset) =
    failed .idRange 0 (.byte 0xFD) := by decide
/-- V2 before and after the ping, V95. -/
theorem test_disassemble_no_prior : resultOf (exec (.disassemble pingStatus) State.reset) =
    some (.err ⟨.noPriorInstruction, 0, .none, pingStatus⟩) := by decide
theorem test_disassemble_status : resultOf (exec (.disassemble pingStatus) (primed 0x01)) =
    okay (.packet pingStatusPacket) := by decide
theorem test_reset : blockOf (exec .reset (primed 0x01)) = some Block.reset := by decide
/-- V88: the CRC error under STRICT; V89: the same frame under LENIENT. -/
theorem test_status_lenient : resultOf (exec (.disassemble badCrcStatus)
    { primed 0x01 with params := ⟨refRegistry, .lenient⟩ }) = okay (.packet
      { pingStatusPacket with raw := badCrcStatus, crc := 0x5D66, crcOk := false }) := by decide
theorem test_status_strict : resultOf (exec (.disassemble badCrcStatus) (primed 0x01)) =
    some (.err ⟨.malformedFrame, 5, .none, badCrcStatus⟩) := by decide
/-- V1's frame as a status instruction, V76's as a ping. -/
theorem test_status : resultOf (exec (.status 0x01 [0x00, 0x06, 0x04, 0x26]) (primed 0x01)) =
    okay (.packet pingStatusPacket) := by decide
theorem test_ping_primes : (blockOf (exec (.ping 0x01) (primed 0x02))).map Block.lastOp = some 0x01 := by decide
theorem test_read_primes : (blockOf (exec (.read 0x01 132 4) State.reset)).map Block.lastOp = some 0x02 := by decide

/-- V80: the registry of one vendor instruction whose opcode is 0xFF, which primes the stuffing window. -/
def vendorEntries : List Entry := [⟨0xFF, "vendor", [greedyField "d"], [greedyField "d"]⟩]

/-- An instance with the vendor registry. -/
def vendorState : State := { State.reset with params := ⟨⟨vendorEntries, by decide⟩, .strict⟩ }

/-- The frame of V80. -/
def vendorFrame : Bytes := [0xFF, 0xFF, 0xFD, 0x00, 0x01, 0x06, 0x00, 0xFF, 0xFF, 0xFD, 0xFD, 0xF8, 0xD3]

theorem test_vendor_assemble : resultOf (exec (.assemble "vendor" 0x01 [("d", .bytes [0xFF, 0xFD])]) vendorState) =
    okay (.assembled vendorFrame
      { dir := .instruction, name := "instruction_vendor", id := 0x01, fields := [("d", .bytes [0xFF, 0xFD])],
        raw := vendorFrame, crc := 0xD3F8, crcOk := true }) := by decide
theorem test_vendor_disassemble : resultOf (exec (.disassemble vendorFrame) vendorState) = okay (.packet
    { dir := .instruction, name := "instruction_vendor", id := 0x01, fields := [("d", .bytes [0xFF, 0xFD])],
      raw := vendorFrame, crc := 0xD3F8, crcOk := true }) := by decide

/-- V6: no instance with an ill-placed greedy field can be built. -/
theorem test_construct_refuses : State.construct [⟨0x01, "bad", greedyFirst, []⟩] .strict = none := by decide

/-! ### The textual form (R102's examples) -/

theorem test_text_crc16 : commandText (.crc16 0x0000 [0xFF, 0xFF, 0xFD, 0x00]) = some "CRC16 0x0000, [FF FF FD 00]" := by
  decide
theorem test_text_unstuff : commandText (.unstuff 0 false [0xFF, 0xFF, 0xFD, 0xFD]) =
    some "UNSTUFF w=0, p=0, [FF FF FD FD]" := by decide
theorem test_text_push : commandText (.detPush 0xFF) = some "DET_PUSH 0xFF" := by decide

/-! ### Witnesses: the hypotheses of each obligation can be met, clause by clause -/

/-- The first hypothesis of StepRunsDecodedInstruction, and the second. -/
theorem witness_StepRunsDecodedInstruction :
    (issued { code := 0xF0 }).commands = [.command { code := 0xF0 }] ∧
    decode (.command { code := 0xF0 }) = .ok .reset ∧ State.reset.commands = [] := by decide

theorem witness_DecodeInvertsEncode : (Instr.unstuff 2 true []).wellFormed = true ∧
    (Instr.read 0xFC 0xFFFF 0).wellFormed = true ∧ (Instr.clear 0xFE 0 [0xFF, 0xFF, 0xFD, 0xFF]).wellFormed = true := by
  decide

theorem witness_FrameIssueIsDisassembleCommand : encode (.ping 0x01) = .frame pingFrame := by decide

theorem witness_EncodeInvertsDecodeFrame : decodeFrame pingFrame = .ok (.ping 0x01) := by decide

/-- The unassigned codes at the ends of the code space (R93). -/
theorem witness_IllegalCodes :
    (issued { code := 0x00 }).commands = [.command { code := 0x00 }] ∧
    (issued { code := 0xFF }).commands = [.command { code := 0xFF }] ∧
    ∀ c ∈ ([0x00, 0xFF] : List Byte),
      c ∉ ([0x01, 0x02, 0x10, 0x11, 0x20, 0x21, 0x22, 0x30, 0x31, 0x40, 0x41, 0xF0] : List Byte) := by decide

/-- ErrorsChangeOnlyStatus, OnlyListedErrorsAreRaised: an instruction that fails, and an unassigned code. -/
theorem witness_error : (∃ t e, exec (.stuff 3 []) State.reset = .next t ∧ t.result = some (.err e)) ∧
    ∃ t e, badCommand 0x03 State.reset = .next t ∧ t.result = some (.err e) := ⟨⟨_, _, rfl, rfl⟩, ⟨_, _, rfl, rfl⟩⟩

/-- StatusReportsOutcome, OnlyListedElementsAreWritten, PowerOnElementValues: instructions that answer a next state,
one for each side of their conclusions. -/
theorem witness_next : (∃ t, exec (.crc16 0 []) State.reset = .next t) ∧ (∃ t, exec (.stuff 3 []) State.reset = .next t) ∧
    (∃ t, exec (.ping 0x01) State.reset = .next t) ∧ (∃ t, exec .reset State.reset = .next t) ∧
    ∃ t, exec (.assemble "ping" 0x01 []) State.reset = .next t :=
  ⟨⟨_, rfl⟩, ⟨_, rfl⟩, ⟨_, rfl⟩, ⟨_, rfl⟩, ⟨_, rfl⟩⟩

/-- A state in which the last command failed. -/
def afterFailure : State :=
  { issued { code := 0xF0 } with block := { Block.reset with status := ⟨0x10, 0x00⟩ } }

/-- Two states that agree on the parameters and the block but for `status`, and differ in the commands still to come. -/
theorem witness_ResultsDependOnlyOnBlock : State.reset.params = afterFailure.params ∧
    { State.reset.block with status := afterFailure.block.status } = afterFailure.block ∧
    (∃ t, exec (.crcFeed [0x01]) State.reset = .next t) ∧ ∃ t, exec (.crcFeed [0x01]) afterFailure = .next t :=
  ⟨rfl, rfl, ⟨_, rfl⟩, ⟨_, rfl⟩⟩

theorem witness_IdempotentCommandsRepeat : (∃ t, exec .detClear State.reset = .next t ∧ exec .detClear t = .next t) ∧
    ∃ t u, exec (.assemble "ping" 0x01 []) State.reset = .next t ∧ exec (.assemble "ping" 0x01 []) t = .next u :=
  ⟨⟨_, rfl, rfl⟩, ⟨_, _, rfl, rfl⟩⟩

/-- Two instances, each with a command of its own, and a schedule that interleaves them. -/
theorem witness_InstancesDoNotInteract :
    (∃ sys', runSchedule [0, 1, 0, 2] [issued { code := 0x30, b := 0xFF }, issued { code := 0xF0 }] = .next sys') ∧
    [issued { code := 0x30, b := 0xFF }, issued { code := 0xF0 }][1]? = some (issued { code := 0xF0 }) := ⟨⟨_, rfl⟩, rfl⟩

/-- DetectorInvariantKept, BufferStaysWithinCapacity: a state of each phase that meets the invariant, and a step. -/
theorem witness_DetInv : (detecting .idle []).block.DetInv ∧ (detecting .starting [0xFF, 0xFF]).block.DetInv ∧
    (detecting .inProgress [0xFF, 0xFF, 0xFD]).block.DetInv ∧
    (detecting .complete [0xFF, 0xFF, 0xFD, 0x00, 0x01, 0x00, 0x00]).block.DetInv ∧
    (∃ t, step (issued { code := 0x30, b := 0xFF }) = .next t) ∧
    ∃ t, Host.Core.run Sys2Proof.core 2 (issued { code := 0x30, b := 0xFF }) = .next t :=
  ⟨rfl, .inr rfl, by simp only [Block.DetInv, detecting]; decide, by simp only [Block.DetInv, detecting]; decide,
    ⟨_, rfl⟩, ⟨_, rfl⟩⟩

theorem witness_CorrInv : (primed 0x93).CorrInv ∧ (issued { code := 0x40, iname := "ping" }).CorrInv ∧
    ∃ t, step (issued { code := 0x40, iname := "ping" }) = .next t :=
  ⟨fun _ => ⟨⟨0x93, "bulk_write", [greedyField "data"], []⟩, by decide, rfl⟩, fun h => absurd h (by decide), ⟨_, rfl⟩⟩

/-- CellWrittenExactlyOnSuccess: an assembled frame, an instruction packet, and a result that is neither. -/
theorem witness_CellWrittenExactlyOnSuccess :
    (∃ t f p, exec (.assemble "ping" 0x01 []) State.reset = .next t ∧ t.result = some (.ok (.assembled f p))) ∧
    (∃ t p, exec (.ping 0x01) State.reset = .next t ∧ t.result = some (.ok (.packet p)) ∧ p.dir = .instruction) ∧
    Instr.detClear ≠ .reset ∧ (∃ t, exec .detClear State.reset = .next t ∧ t.result = some (.ok .none)) ∧
    ∃ t p, exec (.disassemble pingStatus) (primed 0x01) = .next t ∧ t.result = some (.ok (.packet p)) ∧
      p.dir = .status := ⟨⟨_, _, _, rfl, rfl⟩, ⟨_, _, rfl, rfl, rfl⟩, by decide, ⟨_, rfl, rfl⟩, ⟨_, _, rfl, rfl, rfl⟩⟩

theorem witness_StuffingCommandsReturnTransforms : Window.two.code = 2 ∧ Window.zero.code = 0 := by decide

/-- CleanSpanIsStuffed, StuffedSpanHidesMarker. -/
theorem witness_stuffed_spans : (unstuff .zero false [0xFF, 0xFF, 0xFD, 0xFD]).esc = false ∧
    (unstuff .zero false [0xFF, 0xFF, 0xFD, 0xFD]).pEnd = false ∧
    slice (stuff .zero [0xFF, 0xFF, 0xFD]).1 0 3 = [0xFF, 0xFF, 0xFD] := by decide

/-- The ends of the ranges of R174. -/
theorem witness_IntegerCodecRoundTrip : inRange 1 false 255 = true ∧ inRange 2 true (-32768) = true ∧
    inRange 4 true 2147483647 = true ∧ inRange 4 false 4294967295 = true ∧ ([0xFF, 0x7F] : Bytes).length = 2 := by decide

/-- Each clause of LayoutCheckMeaning: an undefined tag, a greedy field that is not last, a repeated name. -/
theorem witness_LayoutCheckMeaning :
    let tags : List Byte := [0x01, 0x02, 0x04, 0x11, 0x12, 0x14, 0x20, 0x30]
    (∀ e ∈ ([u8Field "a"] : Layout), e.tag ∈ tags ∧ e.tag ≠ 0x30) ∧ ([u8Field "a"].map FieldDesc.name).Nodup ∧
    (0x07 : Byte) ∉ tags ∧ (greedyField "g").tag = 0x30 ∧ [u8Field "b"] ≠ [] ∧
    (u16Field "a").tag ∈ tags ∧ (u16Field "a").tag ≠ 0x30 ∧ (u16Field "a").name ∈ [u8Field "a"].map FieldDesc.name := by
  decide

/-- PackFollowsItsChecks: legal values at the ends of their ranges, an empty array and an empty greedy field. -/
theorem witness_PackLegal : PackLegal [u8Field "a", s32Field "b", bytesField "c" 0, greedyField "d"]
    [("d", .bytes []), ("b", .int (-2147483648)), ("a", .int 255), ("c", .bytes [])] where
  layout := by decide
  known := by decide
  once := by decide
  given := by
    intro d hd
    simp only [List.mem_cons, List.not_mem_nil, or_false] at hd
    rcases hd with rfl | rfl | rfl | rfl
    · exact ⟨.int 255, by decide, .inl (by decide)⟩
    · exact ⟨.int (-2147483648), by decide, .inr (.inr (.inr (.inr (.inr (by decide)))))⟩
    · exact ⟨.bytes [], by decide, .inl (by decide)⟩
    · exact ⟨.bytes [], by decide, .inr rfl⟩

/-- Each error clause of PackFollowsItsChecks. -/
theorem witness_PackFollowsItsChecks :
    (∃ r, wfLayout greedyFirst = .error r) ∧ layoutOk addressLength = true ∧
    "x" ∉ addressLength.map FieldDesc.name ∧
    (∀ p ∈ ([("address", .int 1), ("address", .int 2)] : Values), p.1 ∈ addressLength.map FieldDesc.name) ∧
    "address" ∈ ([("address", .int 1)] : Values).map Prod.fst ∧
    "length" ∉ ([("address", .int 1)] : Values).map Prod.fst ∧
    (∀ d ∈ addressLength, d.name ∈ ([("address", .int 65535), ("length", .int 65536)] : Values).map Prod.fst) ∧
    LegalValue (u16Field "address") (.int 65535) ∧ ¬ LegalValue (u16Field "length") (.int 65536) :=
  ⟨⟨_, rfl⟩, by decide, by decide, by decide, by decide, by decide, by decide, .inr (.inl (by decide)),
    by simp [LegalValue, u16Field]⟩

/-- Each clause of UnpackDecodesFittingBuffer. -/
theorem witness_UnpackDecodesFittingBuffer : UnpackFits addressLength 4 ∧ UnpackFits [greedyField "d"] 0 ∧
    (∃ r, wfLayout greedyFirst = .error r) ∧ layoutOk addressLength = true ∧ 3 < fixedSize addressLength ∧
    greedyLayout addressLength = false ∧ fixedSize addressLength < 5 :=
  ⟨⟨by decide, by decide, by decide⟩, ⟨by decide, by decide, by decide⟩, ⟨_, rfl⟩, by decide, by decide, by decide,
    by decide⟩

theorem witness_FieldCodecLaws : pack addressLength [("length", .int 4), ("address", .int 132)] =
      .ok [0x84, 0x00, 0x04, 0x00] ∧
    unpack addressLength [0x84, 0x00, 0x04, 0x00] = .ok [("address", .int 132), ("length", .int 4)] := by decide

theorem witness_GetFieldReturnsFirstMatch : "a" ∉ ([("b", .int 1)] : Values).map Prod.fst ∧
    "a" ∉ ([] : Values).map Prod.fst := by decide

/-- Each clause of DetPushFollowsTransitions, with the byte at which it splits. -/
theorem witness_DetPushFollowsTransitions :
    (detecting .complete []).block.detState = .complete ∧ (detecting .idle []).block.detBuf.length = 0 ∧
    (detecting .starting [0xFF]).block.detBuf.length = 1 ∧ (detecting .starting [0xFF, 0xFF]).block.detBuf.length = 2 ∧
    ¬ ((([0xFF, 0xFF] : Bytes).length = 0 ∨ ([0xFF, 0xFF] : Bytes).length = 1) ∧ (0xFF : Byte) = 0xFF) ∧
    (detecting .inProgress [0xFF, 0xFF, 0xFD]).block.detBuf.length = 3 ∧
    6 ≤ ([0xFF, 0xFF, 0xFD, 0x00, 0x01, 0x00] : Bytes).length ∧
    ([0xFF, 0xFF, 0xFD, 0x00, 0x01, 0x00] : Bytes).length + 1 =
      declared ([0xFF, 0xFF, 0xFD, 0x00, 0x01, 0x00] ++ [0x00]) + 7 ∧
    ¬ (6 ≤ ([0xFF, 0xFF, 0xFD, 0x00, 0x01] : Bytes).length) := by decide

/-- WholeFrameCompletesAtItsEnd, whose prefixes of length 0, 1, 2 and 3 each frame here has, and StrayHeaderBytesParity: the
shortest frame by the detector's measure, and V40. -/
theorem witness_WholeFrame : WholeFrame [0xFF, 0xFF, 0xFD, 0x00, 0x01, 0x00, 0x00] ∧ WholeFrame pingFrame ∧
    State.reset.block.detState = .idle ∧ State.reset.block.detBuf = [] ∧ 2 % 2 = 0 ∧ 1 % 2 = 1 :=
  ⟨⟨by decide, by decide⟩, ⟨by decide, by decide⟩, rfl, rfl, rfl, rfl⟩

/-- A chunk that is consumed, and one that is not. -/
theorem witness_ChunkSplitChangesNothing : (detFeed [0xFF] State.reset).2 = [] ∧
    (detFeed [0xAA] (detecting .complete [])).2 ≠ [] := by decide

/-- ConstructionRequiresWellFormedRegistry, PowerOnElementValues, PowerOnMeetsInvariants. -/
theorem witness_ConstructionRequiresWellFormedRegistry : (∃ s, State.construct refEntries .lenient = some s) ∧
    registryWf refEntries = true ∧
    registryWf [⟨0x55, "s", [], []⟩] = false ∧ registryWf [⟨0x01, "bad", greedyFirst, []⟩] = false :=
  ⟨⟨_, rfl⟩, by decide, by decide, by decide⟩

/-- BuiltFrameLayout, at the longest declared length. -/
theorem witness_BuiltFrameLayout : declaredLength 0x92 (List.replicate 65532 0x00) ≤ 0xFFFF := by
  rw [declaredLength_zeros]

/-- The ping entry of REF. -/
def pingEntry : Entry := ⟨0x01, "ping", [], [u8Field "error", u16Field "model_number", u8Field "firmware_version"]⟩

/-- The bulk_read entry of REF. -/
def bulkEntry : Entry := ⟨0x92, "bulk_read", [greedyField "data"], errorData⟩

/-- A greedy layout accepts any bytes. -/
theorem packLegal_bulk (b : Bytes) : PackLegal bulkEntry.outLayout [("data", .bytes b)] where
  layout := by decide
  known := by simp [bulkEntry, greedyField]
  once := by simp
  given := by
    intro d hd
    simp only [bulkEntry, List.mem_cons, List.not_mem_nil, or_false] at hd
    subst hd
    exact ⟨.bytes b, by simp [greedyField], .inr rfl⟩

/-- What a greedy layout packs to. -/
theorem encodedFields_bulk (b : Bytes) : encodedFields bulkEntry.outLayout [("data", .bytes b)] = b := by
  simp [encodedFields, bulkEntry, greedyField, givenValue, fieldBytes]

/-- AssembleFollowsItsChecks, at the longest frame. -/
theorem witness_AssembleFollowsItsChecks_builds : bulkEntry ∈ State.reset.params.registry.entries ∧ LegalPacketId 0xFC ∧
    PackLegal bulkEntry.outLayout [("data", .bytes (List.replicate 65532 0x00))] ∧
    (stuffedParams 0x92 (encodedFields bulkEntry.outLayout [("data", .bytes (List.replicate 65532 0x00))])).length + 3
      ≤ 0xFFFF := by
  refine ⟨by decide, .inl (by decide), packLegal_bulk _, ?_⟩
  rw [encodedFields_bulk, ← declaredLength_eq, declaredLength_zeros]

/-- Each error clause of AssembleFollowsItsChecks, the last at the shortest frame that is too long. -/
theorem witness_AssembleFollowsItsChecks_errors : (∀ e ∈ State.reset.params.registry.entries, e.name ≠ "pong") ∧
    pingEntry ∈ State.reset.params.registry.entries ∧ ¬ LegalPacketId 0xFD ∧ LegalPacketId 0xFE ∧
    (∃ r, pack pingEntry.outLayout [("x", .int 1)] = .error r) ∧
    PackLegal bulkEntry.outLayout [("data", .bytes (List.replicate 65533 0x00))] ∧
    0xFFFF < (stuffedParams 0x92 (encodedFields bulkEntry.outLayout
      [("data", .bytes (List.replicate 65533 0x00))])).length + 3 := by
  refine ⟨by decide, by decide, by simp [LegalPacketId], .inr rfl, ⟨_, rfl⟩, packLegal_bulk _, ?_⟩
  rw [encodedFields_bulk, ← declaredLength_eq, declaredLength_zeros]
  decide

/-- A frame of V40 or V1 passes the checks of R275 to R277. -/
theorem acceptable_pingFrame (policy : CrcPolicy) : AcceptableFrame policy pingFrame where
  long := by decide
  header := by decide
  length := by decide
  id := .inl (by decide)
  crc := fun _ => by decide
  escape := by decide

theorem acceptable_pingStatus (policy : CrcPolicy) : AcceptableFrame policy pingStatus where
  long := by decide
  header := by decide
  length := by decide
  id := .inl (by decide)
  crc := fun _ => by decide
  escape := by decide

/-- The two clauses of DisassembleFollowsItsChecks that return a record. -/
theorem witness_DisassembleFollowsItsChecks_records :
    AcceptableFrame State.reset.params.crcPolicy pingFrame ∧ AcceptableFrame (primed 0x01).params.crcPolicy pingStatus ∧
    pingEntry ∈ State.reset.params.registry.entries ∧ pingEntry.op = byteAt pingFrame 7 ∧
    UnpackFits pingEntry.outLayout (unstuffedParams pingFrame).out.length ∧ byteAt pingStatus 7 = 0x55 ∧
    (primed 0x01).block.lastValid = true ∧ pingEntry.op = (primed 0x01).block.lastOp ∧
    UnpackFits pingEntry.inLayout (unstuffedParams pingStatus).out.length :=
  ⟨acceptable_pingFrame _, acceptable_pingStatus _, by decide, by decide, ⟨by decide, by decide, by decide⟩, by decide,
    rfl, rfl, ⟨by decide, by decide, by decide⟩⟩

/-- Each clause of DisassembleStructuralChecks: V85, V83, V86, V82 and V84. -/
theorem witness_DisassembleStructuralChecks : (pingFrame.take 9).length < 10 ∧
    10 ≤ (0x00 :: pingFrame).length ∧ slice (0x00 :: pingFrame) 0 4 ≠ [0xFF, 0xFF, 0xFD, 0x00] ∧
    declared [0xFF, 0xFF, 0xFD, 0x00, 0x01, 0x00, 0x00, 0x55, 0x00, 0x00] < 3 ∧
    (pingStatus ++ [0x00]).length ≠ declared (pingStatus ++ [0x00]) + 7 ∧
    3 ≤ declared [0xFF, 0xFF, 0xFD, 0x00, 0xFD, 0x03, 0x00, 0x01, 0x31, 0x7E] ∧
    ¬ LegalPacketId (byteAt [0xFF, 0xFF, 0xFD, 0x00, 0xFD, 0x03, 0x00, 0x01, 0x31, 0x7E] 4) :=
  ⟨by decide, by decide, by decide, by decide, by decide, by decide, by simp [LegalPacketId, byteAt]⟩

/-- The frame of V73, which ends with an escape due. -/
def pendingFrame : Bytes :=
  [0xFF, 0xFF, 0xFD, 0x00, 0x01, 0x07, 0x00, 0x55, 0x00, 0xFF, 0xFF, 0xFD, 0xC7, 0x49]

/-- The unknown opcode's frame of V77. -/
def unknownFrame : Bytes := [0xFF, 0xFF, 0xFD, 0x00, 0x01, 0x03, 0x00, 0x7F, 0x1D, 0x4F]

/-- The status frame without params of V87. -/
def emptyStatus : Bytes := [0xFF, 0xFF, 0xFD, 0x00, 0x01, 0x03, 0x00, 0x55, 0xE2, 0xCF]

/-- A read frame without params. -/
def emptyRead : Bytes := buildFrame 0x02 0x01 []

/-- A frame that passes the checks of R275. -/
def WellShaped (f : Bytes) : Prop :=
  10 ≤ f.length ∧ slice f 0 4 = [0xFF, 0xFF, 0xFD, 0x00] ∧ 3 ≤ declared f ∧ f.length = declared f + 7 ∧
    LegalPacketId (byteAt f 4)

/-- No escape is missing or due in a frame. -/
def escapesClean (f : Bytes) : Bool := !(unstuffedParams f).esc && !(unstuffedParams f).pEnd

/-- The premises of each error clause of DisassembleFollowsItsChecks, and of a record under LENIENT with a CRC mismatch:
V88 (CRC), V73 (ESCAPE), V2 (no prior), V77 (unknown), V87 and a read frame without params (PAYLOAD). -/
theorem witness_DisassembleFollowsItsChecks_crc : WellShaped badCrcStatus ∧
    State.reset.params.crcPolicy = .strict ∧ carriedCrc badCrcStatus ≠ recomputedCrc badCrcStatus ∧
    escapesClean badCrcStatus = true ∧ pingEntry ∈ (primed 0x01).params.registry.entries ∧
    UnpackFits pingEntry.inLayout (unstuffedParams badCrcStatus).out.length :=
  ⟨⟨by decide, by decide, by decide, by decide, .inl (by decide)⟩, rfl, by decide, by decide, by decide,
    ⟨by decide, by decide, by decide⟩⟩

theorem witness_DisassembleFollowsItsChecks_escape : WellShaped pendingFrame ∧
    carriedCrc pendingFrame = recomputedCrc pendingFrame ∧ (unstuffedParams pendingFrame).pEnd = true :=
  ⟨⟨by decide, by decide, by decide, by decide, .inl (by decide)⟩, by decide, by decide⟩

theorem witness_DisassembleFollowsItsChecks_unresolved : WellShaped pingStatus ∧ byteAt pingStatus 7 = 0x55 ∧
    carriedCrc pingStatus = recomputedCrc pingStatus ∧ escapesClean pingStatus = true ∧
    State.reset.block.lastValid = false ∧
    WellShaped unknownFrame ∧ carriedCrc unknownFrame = recomputedCrc unknownFrame ∧ escapesClean unknownFrame = true ∧
    byteAt unknownFrame 7 ≠ 0x55 ∧ ∀ e ∈ State.reset.params.registry.entries, e.op ≠ byteAt unknownFrame 7 :=
  ⟨⟨by decide, by decide, by decide, by decide, .inl (by decide)⟩, by decide, by decide, by decide, rfl,
    ⟨by decide, by decide, by decide, by decide, .inl (by decide)⟩, by decide, by decide, by decide, by decide⟩

theorem witness_DisassembleFollowsItsChecks_payload : WellShaped emptyStatus ∧
    carriedCrc emptyStatus = recomputedCrc emptyStatus ∧ escapesClean emptyStatus = true ∧
    byteAt emptyStatus 7 = 0x55 ∧ pingEntry.op = (primed 0x01).block.lastOp ∧
    ¬ UnpackFits pingEntry.inLayout (unstuffedParams emptyStatus).out.length ∧
    WellShaped emptyRead ∧ carriedCrc emptyRead = recomputedCrc emptyRead ∧ escapesClean emptyRead = true ∧
    (∃ e ∈ State.reset.params.registry.entries, e.op = byteAt emptyRead 7 ∧ e.outLayout = addressLength) ∧
    ¬ UnpackFits addressLength (unstuffedParams emptyRead).out.length :=
  ⟨⟨by decide, by decide, by decide, by decide, .inl (by decide)⟩, by decide, by decide, by decide, rfl,
    fun h => absurd h.2.1 (by decide),
    ⟨by decide, by decide, by decide, by decide, .inl (by decide)⟩, by decide, by decide, by decide,
    fun h => absurd h.2.1 (by decide)⟩

/-- AssembleThenDisassemble, ReportedCrcIsCarried. -/
theorem witness_AssembleThenDisassemble : pingEntry ∈ State.reset.params.registry.entries ∧
    (∃ t f p, exec (.assemble pingEntry.name 0x01 []) State.reset = .next t ∧
      t.result = some (.ok (.assembled f p))) ∧
    ∃ t p, exec (.disassemble pingStatus) (primed 0x01) = .next t ∧ t.result = some (.ok (.packet p)) :=
  ⟨by decide, ⟨_, _, _, rfl, rfl⟩, ⟨_, _, rfl, rfl⟩⟩

/-- The four statements of received frames: REF, a legal id, the longest greedy field and a key of four bytes. -/
theorem witness_received : State.reset.params.registry = refRegistry ∧ LegalPacketId 0xFE ∧
    (stuffedParams 0x92 (List.replicate 65532 0x00)).length + 3 ≤ 0xFFFF ∧
    (stuffedParams 0x03 [lowByte 0xFFFF, highByte 0xFFFF, 0xFD]).length + 3 ≤ 0xFFFF ∧
    (stuffedParams 0x04 [lowByte 0, highByte 0]).length + 3 ≤ 0xFFFF ∧
    (stuffedParams 0x82 [lowByte 0, highByte 0, lowByte 1, highByte 1, 0xFF]).length + 3 ≤ 0xFFFF ∧
    (stuffedParams 0x83 [lowByte 0, highByte 0, lowByte 1, highByte 1]).length + 3 ≤ 0xFFFF ∧
    (stuffedParams 0x93 []).length + 3 ≤ 0xFFFF ∧ ([0x44, 0x58, 0x4C, 0x22] : Bytes).length = 4 := by
  refine ⟨rfl, .inr rfl, ?_, by decide, by decide, by decide, by decide, by decide, rfl⟩
  rw [← declaredLength_eq, declaredLength_zeros]

theorem witness_StatusFrameCorrelates : LegalPacketId 0x01 ∧
    (stuffedParams 0x55 [0x00, 0x06, 0x04, 0x26]).length + 3 ≤ 0xFFFF ∧
    pingEntry ∈ (primed 0x01).params.registry.entries ∧ (primed 0x01).block.lastValid = true ∧
    pingEntry.op = (primed 0x01).block.lastOp ∧ UnpackFits pingEntry.inLayout 4 ∧
    State.reset.block.lastValid = false :=
  ⟨.inl (by decide), by decide, by decide, rfl, rfl, ⟨by decide, by decide, by decide⟩, rfl⟩

/-- ReadoutDeliversElements: a state in each phase. -/
theorem witness_ReadoutDeliversElements : (detecting .idle []).block.detState = .idle ∧
    (detecting .starting [0xFF]).block.detState = .starting ∧
    (detecting .inProgress [0xFF, 0xFF, 0xFD]).block.detState = .inProgress ∧
    (detecting .complete pingFrame).block.detState = .complete := ⟨rfl, rfl, rfl, rfl⟩

end Sys2Proof.Tests
end

section
/-! Several instances (spec/20_memory.md R72): what one step does at its own position and at every other
one, and from that what a whole schedule does at each position. -/

namespace Sys2Proof.Machine

/-- All that a step at position `k` can do: nothing where no state stands there, else that state's own `step`. -/
theorem stepInstance_eq_next {k : Nat} {sys sys' : List State} (h : stepInstance k sys = .next sys') :
    (sys[k]? = none ∧ sys' = sys) ∨
      ∃ s t, sys[k]? = some s ∧ step s = .next t ∧ sys' = sys.set k t := by
  unfold stepInstance at h
  cases hk : sys[k]? with
  | none =>
    rw [hk] at h
    cases h
    exact .inl ⟨rfl, rfl⟩
  | some s =>
    rw [hk] at h
    cases hs : step s with
    | next t =>
      simp only [hs, Host.Outcome.next.injEq] at h
      exact .inr ⟨s, t, rfl, hs, h.symm⟩
    | fault r => simp [hs] at h
    | refused r => simp [hs] at h

theorem stepInstance_getElem?_ne {j k : Nat} {sys sys' : List State} (h : stepInstance j sys = .next sys')
    (hne : j ≠ k) : sys'[k]? = sys[k]? := by
  obtain ⟨-, rfl⟩ | ⟨_, t, -, -, rfl⟩ := stepInstance_eq_next h
  · rfl
  · exact List.getElem?_set_ne hne

theorem stepInstance_getElem?_self {k : Nat} {sys sys' : List State} {s : State}
    (h : stepInstance k sys = .next sys') (hs : sys[k]? = some s) :
    ∃ t, step s = .next t ∧ sys'[k]? = some t := by
  obtain ⟨hnone, -⟩ | ⟨s₀, t, hs₀, hstep, rfl⟩ := stepInstance_eq_next h
  · simp [hs] at hnone
  · obtain rfl : s = s₀ := Option.some.inj (hs.symm.trans hs₀)
    obtain ⟨hlt, -⟩ := List.getElem?_eq_some_iff.mp hs
    exact ⟨t, hstep, List.getElem?_set_self hlt⟩

theorem runSchedule_cons_eq_next {k : Nat} {rest : List Nat} {sys sys' : List State}
    (h : runSchedule (k :: rest) sys = .next sys') :
    ∃ mid, stepInstance k sys = .next mid ∧ runSchedule rest mid = .next sys' := by
  rw [runSchedule] at h
  cases hk : stepInstance k sys with
  | next mid => exact ⟨mid, rfl, by simpa only [hk] using h⟩
  | fault r => simp [hk] at h
  | refused r => simp [hk] at h

theorem run_succ_of_step {s t : State} (h : step s = .next t) (n : Nat) :
    Host.Core.run Sys2Proof.core (n + 1) s = Host.Core.run Sys2Proof.core n t := by
  have hstep : Sys2Proof.core.step s = .next t := h
  simp only [Host.Core.run, hstep]

/-- Settles O15, by induction on the schedule: its first step is the one at position `k`, or leaves the state
there as it was. -/
theorem instancesDoNotInteract : Obligations.InstancesDoNotInteract := by
  unfold Obligations.InstancesDoNotInteract
  intro schedule
  induction schedule with
  | nil =>
    intro sys sys' h k s hs
    cases h
    exact ⟨s, rfl, hs⟩
  | cons j rest ih =>
    intro sys sys' h k s hs
    obtain ⟨mid, hfirst, hrest⟩ := runSchedule_cons_eq_next h
    by_cases hjk : j = k
    · subst hjk
      obtain ⟨t, hstep, ht⟩ := stepInstance_getElem?_self hfirst hs
      rw [List.count_cons_self, run_succ_of_step hstep]
      exact ih mid sys' hrest j t ht
    · rw [List.count_cons_of_ne hjk]
      exact ih mid sys' hrest k s ((stepInstance_getElem?_ne hfirst hjk).trans hs)

end Sys2Proof.Machine
end

section
/-! The frame of an opcode, an id and stuffed params, offset by offset (spec/30_encoding.md R80 to R83, R86, R87): the
bytes its CRC covers, then the CRC, low byte first. Its length, its declared length, its PARAM span and its two CRCs
follow from that shape. -/

namespace Sys2Proof.Machine

/-- The bytes of `frameOf` its CRC covers, offset 0 through the last PARAM byte (R82). -/
def coveredBytes (op id : Byte) (stuffedParams : Bytes) : Bytes :=
  [0xFF, 0xFF, 0xFD, 0x00, id, BitVec.ofNat 8 (stuffedParams.length + 3),
    BitVec.ofNat 8 ((stuffedParams.length + 3) / 256), op] ++ stuffedParams

@[simp] theorem coveredBytes_length (op id : Byte) (sp : Bytes) : (coveredBytes op id sp).length = sp.length + 8 := by
  simp [coveredBytes]

theorem frameOf_eq_append_crc (op id : Byte) (sp : Bytes) :
    frameOf op id sp = coveredBytes op id sp ++ halfBytes (crc16 0 (coveredBytes op id sp)) := by
  rw [halfBytes_eq]
  rfl

@[simp] theorem frameOf_length (op id : Byte) (sp : Bytes) : (frameOf op id sp).length = sp.length + 10 := by
  simp [frameOf_eq_append_crc]

theorem declared_coveredBytes {op id : Byte} {sp : Bytes} (h : sp.length + 3 ≤ 0xFFFF) :
    declared (coveredBytes op id sp) = sp.length + 3 :=
  le16_ofNat (Nat.lt_succ_of_le h)

theorem declared_frameOf {op id : Byte} {sp : Bytes} (h : sp.length + 3 ≤ 0xFFFF) :
    declared (frameOf op id sp) = sp.length + 3 := by
  rw [frameOf_eq_append_crc, declared_append _ (by simp), declared_coveredBytes h]

/-- The PARAM span stands from offset 8 up to the CRC field (R80). -/
theorem slice_frameOf_params (op id : Byte) (sp : Bytes) :
    slice (frameOf op id sp) 8 ((frameOf op id sp).length - 2) = sp := by
  have hdrop : (frameOf op id sp).drop 8 = sp ++ halfBytes (crc16 0 (coveredBytes op id sp)) := by
    rw [frameOf_eq_append_crc]
    rfl
  simp [slice, hdrop]

/-- A frame that ends with a CRC field carries that CRC, whatever it covers. -/
theorem carriedCrc_append_halfBytes (body : Bytes) (c : Half) : carriedCrc (body ++ halfBytes c) = c := by
  rw [halfBytes_eq]
  have hlow : byteAt (body ++ [lowByte c, highByte c]) body.length = lowByte c := by simp [byteAt]
  have hhigh : byteAt (body ++ [lowByte c, highByte c]) (body.length + 1) = highByte c := by simp [byteAt]
  calc carriedCrc (body ++ [lowByte c, highByte c])
      = halfOf (byteAt (body ++ [lowByte c, highByte c]) body.length)
          (byteAt (body ++ [lowByte c, highByte c]) (body.length + 1)) := by simp [carriedCrc, halfOf]
    _ = c := by rw [hlow, hhigh, halfOf_bytes]

theorem recomputedCrc_append_halfBytes (body : Bytes) (c : Half) :
    recomputedCrc (body ++ halfBytes c) = crc16 0 body := by
  simp [recomputedCrc]

theorem carriedCrc_frameOf (op id : Byte) (sp : Bytes) :
    carriedCrc (frameOf op id sp) = recomputedCrc (frameOf op id sp) := by
  rw [frameOf_eq_append_crc, carriedCrc_append_halfBytes, recomputedCrc_append_halfBytes]

/-- The declared length can be read once the first seven bytes are present. -/
theorem declared_take {f : Bytes} {k : Nat} (hk : 7 ≤ k) (hf : 7 ≤ f.length) : declared (f.take k) = declared f := by
  have h : 7 ≤ (f.take k).length := by simp [hk, hf]
  calc declared (f.take k) = declared (f.take k ++ f.drop k) := (declared_append _ h).symm
    _ = declared f := by rw [List.take_append_drop]

theorem frameLength?_take {f : Bytes} {k : Nat} (hk : 7 ≤ k) (hf : 7 ≤ f.length) :
    frameLength? (f.take k) = some (declared f + 7) := by
  have h : 7 ≤ (f.take k).length := by simp [hk, hf]
  rw [← declared_take hk hf]
  exact if_pos h

/-- Settles O43: the built frame is `frameOf` of its stuffed params, and each clause is a fact about `frameOf`; the
declared length is its 16-bit field because it fits. -/
theorem builtFrameLayout : Obligations.BuiltFrameLayout := by
  unfold Obligations.BuiltFrameLayout
  intro op id params hfits f
  have hf : f = frameOf op id (stuffedParams op params) := buildFrame_eq op id params
  rw [declaredLength_eq] at hfits
  have hlen : f.length = (stuffedParams op params).length + 10 := by rw [hf, frameOf_length]
  have hdecl : declared f = (stuffedParams op params).length + 3 := by rw [hf, declared_frameOf hfits]
  refine ⟨stuffedSpan_eq op params, hf, hdecl, by omega, fun k hk => ?_, by omega, by omega, ?_, ?_⟩
  · rw [frameLength?_take hk (by omega), hdecl, hlen]
  · rw [hf, slice_frameOf_params]
  · rw [hf, carriedCrc_frameOf]

end Sys2Proof.Machine
end

section
/-! The commands of the CRC16 engine (spec/41_crc.md R127, R128): the record each is decoded from, and its end state,
which every operand reaches. -/

namespace Sys2Proof.Machine

theorem decode_crc16_command (seed : Half) (data : Bytes) :
    decode (.command { code := 0x01, seed := seed, data := data }) = .ok (.crc16 seed data) := rfl

theorem decode_crcFeed_command (data : Bytes) :
    decode (.command { code := 0x02, data := data }) = .ok (.crcFeed data) := rfl

theorem exec_crc16 (seed : Half) (data : Bytes) (s : State) :
    exec (.crc16 seed data) s =
      .next (s.afterOk (s.block.withCrc (crc16 seed data)) (.crc (crc16 seed data))) :=
  succeed_eq s _ _

/-- CRC_FEED is CRC16 seeded with the accumulator (R128). -/
theorem exec_crcFeed_eq_crc16 (data : Bytes) (s : State) :
    exec (.crcFeed data) s = exec (.crc16 s.block.crcAcc data) s := rfl

/-- Settles O23: both codes are assigned, CRC16 ends in a success that writes the accumulator alone, and CRC_FEED is
CRC16 from the accumulated value. -/
theorem crcCommandsSetAccumulator : Obligations.CrcCommandsSetAccumulator := by
  unfold Obligations.CrcCommandsSetAccumulator
  constructor
  · intro seed data s
    exact ⟨decode_crc16_command seed data, exec_crc16 seed data s⟩
  · intro data s
    exact ⟨decode_crcFeed_command data, (exec_crcFeed_eq_crc16 data s).trans (exec_crc16 _ data s)⟩

end Sys2Proof.Machine
end

section
/-! The commands of the byte-stuffing codec (spec/42_stuffing.md R148, R149): the record each is decoded from, what the
window operand selects (R91, R94), and the two ends of each command, one for a legal window and one for 3. -/

namespace Sys2Proof.Machine

theorem decode_stuff_command (w0 : BitVec 2) (data : Bytes) :
    decode (.command { code := 0x10, w0 := w0, data := data }) = .ok (.stuff w0 data) := rfl

theorem decode_unstuff_command (w0 : BitVec 2) (p0 : Bool) (data : Bytes) :
    decode (.command { code := 0x11, w0 := w0, p0 := p0, data := data }) = .ok (.unstuff w0 p0 data) := rfl

/-- The legal operands are the codes of the window states. -/
@[simp] theorem windowOperand_code (w : Window) : windowOperand w.code = .ok w := by
  cases w with
  | zero => rfl
  | one => rfl
  | two => rfl

@[simp] theorem windowOperand_three : windowOperand 3 = .error ⟨.badOperand, 0, .byte 0x03⟩ := rfl

/-- STUFF is a function of the window its operand selects, and raises only what the operand does (R148). -/
theorem exec_stuff (w0 : BitVec 2) (data : Bytes) (s : State) :
    exec (.stuff w0 data) s = s.answer [] ((windowOperand w0).map fun w =>
      (s.block, .stuffed (stuff w data).1 (stuff w data).2)) := by
  change s.answer [] ((stuffAnswer w0 data).map _) = _
  rw [stuffAnswer]
  cases windowOperand w0 with
  | ok w => rfl
  | error r => rfl

/-- UNSTUFF is a function of the window its operand selects; a missing escape raises nothing (R149). -/
theorem exec_unstuff (w0 : BitVec 2) (p0 : Bool) (data : Bytes) (s : State) :
    exec (.unstuff w0 p0 data) s = s.answer [] ((windowOperand w0).map fun w =>
      (s.block, .unstuffed (unstuff w p0 data).out (unstuff w p0 data).wEnd (unstuff w p0 data).pEnd
        (unstuff w p0 data).esc)) := by
  change s.answer [] ((unstuffAnswer w0 p0 data).map _) = _
  rw [unstuffAnswer]
  cases windowOperand w0 with
  | ok w => rfl
  | error r => rfl

theorem exec_stuff_code (w : Window) (data : Bytes) (s : State) :
    exec (.stuff w.code data) s = .next (s.afterOk s.block (.stuffed (stuff w data).1 (stuff w data).2)) := by
  rw [exec_stuff, windowOperand_code]
  exact answer_ok s [] _ _

theorem exec_stuff_three (data : Bytes) (s : State) :
    exec (.stuff 3 data) s = .next (s.afterError [] ⟨.badOperand, 0, .byte 0x03⟩) := by
  rw [exec_stuff, windowOperand_three]
  exact answer_error s [] _

theorem exec_unstuff_code (w : Window) (p0 : Bool) (data : Bytes) (s : State) :
    exec (.unstuff w.code p0 data) s =
      .next (s.afterOk s.block (.unstuffed (unstuff w p0 data).out (unstuff w p0 data).wEnd
        (unstuff w p0 data).pEnd (unstuff w p0 data).esc)) := by
  rw [exec_unstuff, windowOperand_code]
  exact answer_ok s [] _ _

theorem exec_unstuff_three (p0 : Bool) (data : Bytes) (s : State) :
    exec (.unstuff 3 p0 data) s = .next (s.afterError [] ⟨.badOperand, 0, .byte 0x03⟩) := by
  rw [exec_unstuff, windowOperand_three]
  exact answer_error s [] _

/-- Settles O26: both codes are assigned, a legal operand is the code of its window, from which each command ends in a
success, and 3 is the code of none. -/
theorem stuffingCommandsReturnTransforms : Obligations.StuffingCommandsReturnTransforms := by
  unfold Obligations.StuffingCommandsReturnTransforms
  refine ⟨?decoded, ?stuffs, ?unstuffs, ?illegal⟩
  case decoded =>
    intro w0 p0 data
    exact ⟨decode_stuff_command w0 data, decode_unstuff_command w0 p0 data⟩
  case stuffs =>
    rintro _ w data s rfl
    exact exec_stuff_code w data s
  case unstuffs =>
    rintro _ w p0 data s rfl
    exact exec_unstuff_code w p0 data s
  case illegal =>
    intro p0 data s
    exact ⟨exec_stuff_three data s, exec_unstuff_three p0 data s⟩

end Sys2Proof.Machine
end

section
/-! The commands of the field codec (spec/43_field_codec.md R180 to R182): the record each is decoded from, and the end
state of each from what its codec function returns. -/

namespace Sys2Proof.Machine

/-- A command that returns what a codec function computed, and writes nothing else, when the function succeeds. -/
theorem answer_map_of_ok {α : Type} {x : Except Raise α} {a : α} (h : x = .ok a) (s : State) (raw : Bytes)
    (f : α → Answer) : s.answer raw (x.map fun v => (s.block, f v)) = .next (s.afterOk s.block (f a)) := by
  subst h
  exact answer_ok s raw s.block (f a)

/-- Such a command raises what the function raises. -/
theorem answer_map_of_error {α : Type} {x : Except Raise α} {r : Raise} (h : x = .error r) (s : State) (raw : Bytes)
    (f : α → Answer) : s.answer raw (x.map fun v => (s.block, f v)) = .next (s.afterError raw r) := by
  subst h
  exact answer_error s raw r

theorem decode_pack_command (lay : Layout) (vals : Values) :
    decode (.command { code := 0x20, layout := lay, values := vals }) = .ok (.pack lay vals) := rfl

theorem decode_unpack_command (lay : Layout) (data : Bytes) :
    decode (.command { code := 0x21, layout := lay, data := data }) = .ok (.unpack lay data) := rfl

theorem decode_getField_command (vals : Values) (fname : Name) :
    decode (.command { code := 0x22, values := vals, fname := fname }) = .ok (.getField vals fname) := rfl

theorem exec_pack_of_ok {lay : Layout} {vals : Values} {out : Bytes} (h : pack lay vals = .ok out) (s : State) :
    exec (.pack lay vals) s = .next (s.afterOk s.block (.bytes out)) :=
  answer_map_of_ok h s [] .bytes

theorem exec_pack_of_error {lay : Layout} {vals : Values} {r : Raise} (h : pack lay vals = .error r) (s : State) :
    exec (.pack lay vals) s = .next (s.afterError [] r) :=
  answer_map_of_error h s [] .bytes

theorem exec_unpack_of_ok {lay : Layout} {data : Bytes} {res : Values} (h : unpack lay data = .ok res) (s : State) :
    exec (.unpack lay data) s = .next (s.afterOk s.block (.values res)) :=
  answer_map_of_ok h s data .values

theorem exec_unpack_of_error {lay : Layout} {data : Bytes} {r : Raise} (h : unpack lay data = .error r) (s : State) :
    exec (.unpack lay data) s = .next (s.afterError data r) :=
  answer_map_of_error h s data .values

theorem exec_getField_of_ok {vals : Values} {fname : Name} {v : FieldValue} (h : getField vals fname = .ok v)
    (s : State) : exec (.getField vals fname) s = .next (s.afterOk s.block (.value v)) :=
  answer_map_of_ok h s [] .value

theorem exec_getField_of_error {vals : Values} {fname : Name} {r : Raise} (h : getField vals fname = .error r)
    (s : State) : exec (.getField vals fname) s = .next (s.afterError [] r) :=
  answer_map_of_error h s [] .value

end Sys2Proof.Machine
end

section
/-! Access by name (spec/43_field_codec.md R182): GET_FIELD's lookup passes the pairs of other names and stops at the
first pair of its own. -/

namespace Sys2Proof.Machine

theorem lookupValue_append_of_notMem {pre : Values} {nm : Name} (rest : Values) (h : nm ∉ pre.map Prod.fst) :
    lookupValue nm (pre ++ rest) = lookupValue nm rest := by
  induction pre with
  | nil => rfl
  | cons p pre ih =>
    obtain ⟨hne, hpre⟩ := not_or.1 (mt List.mem_cons.2 h)
    calc lookupValue nm (p :: (pre ++ rest)) = lookupValue nm (pre ++ rest) := if_neg (Ne.symm hne)
      _ = lookupValue nm rest := ih hpre

theorem lookupValue_cons_self (nm : Name) (v : FieldValue) (rest : Values) :
    lookupValue nm ((nm, v) :: rest) = some v := if_pos rfl

theorem getField_of_lookup {vals : Values} {fname : Name} {v : FieldValue} (h : lookupValue fname vals = some v) :
    getField vals fname = .ok v := by
  simp only [getField, h]

theorem getField_of_notMem {vals : Values} {fname : Name} (h : fname ∉ vals.map Prod.fst) :
    getField vals fname = .error (unknownField fname) := by
  simp only [getField, lookupValue_eq_none.2 h]

/-- Settles O36: the lookup finds the first pair with the name, and finds none only where no pair has it. -/
theorem getFieldReturnsFirstMatch : Obligations.GetFieldReturnsFirstMatch := by
  unfold Obligations.GetFieldReturnsFirstMatch
  refine ⟨decode_getField_command, ?found, ?absent⟩
  case found =>
    intro pre post fname v s hpre
    have hlookup : lookupValue fname (pre ++ (fname, v) :: post) = some v :=
      (lookupValue_append_of_notMem _ hpre).trans (lookupValue_cons_self fname v post)
    exact exec_getField_of_ok (getField_of_lookup hlookup) s
  case absent =>
    intro vals fname s h
    exact exec_getField_of_error (getField_of_notMem h) s

end Sys2Proof.Machine
end

section
/-! The layout check (spec/43_field_codec.md R171): what one descriptor does to it, what descriptors that pass leave of
it, and from these the layouts it accepts and the first error of the others. -/

namespace Sys2Proof.Machine

/-- A greedy descriptor stands only last (R171). -/
def GreedyOnlyLast (lay : Layout) : Prop :=
  ∀ pre d post, lay = pre ++ d :: post → isGreedy d = true → post = []

theorem greedyOnlyLast_nil : GreedyOnlyLast [] := fun pre d post h => by simp at h

theorem greedyOnlyLast_cons {d : FieldDesc} {rest : Layout} :
    GreedyOnlyLast (d :: rest) ↔ (isGreedy d = true → rest = []) ∧ GreedyOnlyLast rest := by
  constructor
  · intro h
    exact ⟨h [] d rest rfl, fun pre e post hr => h (d :: pre) e post (congrArg (d :: ·) hr)⟩
  · rintro ⟨hd, hrest⟩ pre e post h hg
    cases pre with
    | nil =>
      obtain ⟨rfl, rfl⟩ := List.cons.inj h
      exact hd hg
    | cons p pre => exact hrest pre e post (List.cons.inj h).2 hg

theorem wfLayoutFrom_cons_badTag {seen : List Name} {d : FieldDesc} (rest : Layout)
    (h : ¬ (fieldKind d.tag).isSome = true) :
    wfLayoutFrom seen (d :: rest) = .error (layoutError .badTag d.name) :=
  if_pos (by simpa using h)

theorem wfLayoutFrom_cons_greedyNotLast {seen : List Name} {d : FieldDesc} {rest : Layout}
    (hg : isGreedy d = true) (hrest : rest ≠ []) :
    wfLayoutFrom seen (d :: rest) = .error (layoutError .greedyNotLast d.name) := by
  have htag : (fieldKind d.tag).isNone = false := by
    rw [beq_iff_eq.1 hg]
    rfl
  simp [wfLayoutFrom, htag, hg, hrest]

theorem wfLayoutFrom_cons_dupName {seen : List Name} {d : FieldDesc} {rest : Layout}
    (htag : (fieldKind d.tag).isSome = true) (hlast : isGreedy d = true → rest = []) (hseen : d.name ∈ seen) :
    wfLayoutFrom seen (d :: rest) = .error (layoutError .dupName d.name) := by
  have hsome : (fieldKind d.tag).isNone = false := by simpa using htag
  have hlast : ¬ (isGreedy d && !rest.isEmpty) = true := by simpa using hlast
  simp [wfLayoutFrom, hsome, hlast, hseen]

theorem wfLayoutFrom_cons_pass {seen : List Name} {d : FieldDesc} {rest : Layout}
    (htag : (fieldKind d.tag).isSome = true) (hlast : isGreedy d = true → rest = []) (hseen : d.name ∉ seen) :
    wfLayoutFrom seen (d :: rest) = wfLayoutFrom (d.name :: seen) rest := by
  have hsome : (fieldKind d.tag).isNone = false := by simpa using htag
  have hlast : ¬ (isGreedy d && !rest.isEmpty) = true := by simpa using hlast
  simp [wfLayoutFrom, hsome, hlast, hseen]

/-- Descriptors that pass every check only add their names to those seen. -/
theorem wfLayoutFrom_append {pre : Layout} {seen : List Name} (rest : Layout)
    (hplain : ∀ e ∈ pre, (fieldKind e.tag).isSome = true ∧ ¬ isGreedy e = true)
    (hnames : (pre.map FieldDesc.name).Nodup) (hseen : (pre.map FieldDesc.name).Disjoint seen) :
    wfLayoutFrom seen (pre ++ rest) = wfLayoutFrom ((pre.map FieldDesc.name).reverse ++ seen) rest := by
  induction pre generalizing seen with
  | nil => rfl
  | cons d pre ih =>
    obtain ⟨⟨htag, hg⟩, hplain⟩ := List.forall_mem_cons.1 hplain
    obtain ⟨hd, hnames⟩ := List.nodup_cons.1 hnames
    obtain ⟨hds, hseen⟩ := List.disjoint_cons_left.1 hseen
    have hseen' : (pre.map FieldDesc.name).Disjoint (d.name :: seen) := List.disjoint_cons_right.2 ⟨hd, hseen⟩
    calc wfLayoutFrom seen (d :: (pre ++ rest))
        = wfLayoutFrom (d.name :: seen) (pre ++ rest) := wfLayoutFrom_cons_pass htag (absurd · hg) hds
      _ = wfLayoutFrom ((pre.map FieldDesc.name).reverse ++ d.name :: seen) rest := ih hplain hnames hseen'
      _ = wfLayoutFrom (((d :: pre).map FieldDesc.name).reverse ++ seen) rest := by simp

/-- The layouts the check accepts when the names in `seen` are taken. -/
theorem wfLayoutFrom_eq_ok_iff {seen : List Name} {lay : Layout} :
    wfLayoutFrom seen lay = .ok () ↔
      (∀ d ∈ lay, (fieldKind d.tag).isSome = true) ∧ GreedyOnlyLast lay ∧
        (lay.map FieldDesc.name).Nodup ∧ (lay.map FieldDesc.name).Disjoint seen := by
  induction lay generalizing seen with
  | nil => simp [wfLayoutFrom, greedyOnlyLast_nil]
  | cons d rest ih =>
    have hcons : wfLayoutFrom seen (d :: rest) = .ok () ↔ ((fieldKind d.tag).isSome = true ∧
        (isGreedy d = true → rest = []) ∧ d.name ∉ seen ∧ wfLayoutFrom (d.name :: seen) rest = .ok ()) :=
      ⟨wfLayoutFrom_cons, fun ⟨htag, hlast, hseen, h⟩ => (wfLayoutFrom_cons_pass htag hlast hseen).trans h⟩
    rw [hcons, ih, greedyOnlyLast_cons, List.forall_mem_cons, List.map_cons, List.nodup_cons,
      List.disjoint_cons_left, List.disjoint_cons_right]
    tauto

theorem wfLayout_eq_ok_iff {lay : Layout} :
    wfLayout lay = .ok () ↔ (∀ d ∈ lay, (fieldKind d.tag).isSome = true) ∧ GreedyOnlyLast lay ∧
      (lay.map FieldDesc.name).Nodup := by
  simp [wfLayout, wfLayoutFrom_eq_ok_iff]

/-- Settles O32: the check accepts by `wfLayout_eq_ok_iff`; otherwise it passes the descriptors before the first that
fails, whose three checks come in order. -/
theorem layoutCheckMeaning : Obligations.LayoutCheckMeaning := by
  unfold Obligations.LayoutCheckMeaning
  simp only [ne_eq, ← fieldKind_isSome_iff, ← isGreedy_iff]
  refine ⟨fun lay => wfLayout_eq_ok_iff, fun pre post d hplain hnames => ?_⟩
  have hreach : wfLayout (pre ++ d :: post) = wfLayoutFrom (pre.map FieldDesc.name).reverse (d :: post) := by
    simpa [wfLayout] using wfLayoutFrom_append (seen := []) (d :: post) hplain hnames (List.disjoint_nil_right _)
  rw [hreach]
  refine ⟨fun htag => ?_, fun hg hpost => ?_, fun htag hlast hdup => ?_⟩
  · exact wfLayoutFrom_cons_badTag post htag
  · exact wfLayoutFrom_cons_greedyNotLast hg hpost
  · exact wfLayoutFrom_cons_dupName htag hlast (List.mem_reverse.2 hdup)

end Sys2Proof.Machine
end

section
/-! Unpacking (spec/43_field_codec.md R178, R181): where each field of the decoded list comes from, and the errors the
length checks raise. -/

namespace Sys2Proof.Machine

@[simp] theorem unpackFields_length (lay : Layout) (data : Bytes) : (unpackFields lay data).length = lay.length := by
  induction lay generalizing data with
  | nil => rfl
  | cons d rest ih => simp [unpackFields, ih]

/-- The fields of a layout's later part are read from the bytes behind its first part. -/
theorem unpackFields_append (pre rest : Layout) (data : Bytes) :
    unpackFields (pre ++ rest) data = unpackFields pre data ++ unpackFields rest (data.drop (fixedSize pre)) := by
  induction pre generalizing data with
  | nil => rfl
  | cons d pre ih => simp [unpackFields, fixedSize, ih, List.drop_drop]

theorem unpackFields_getElem? (pre post : Layout) (d : FieldDesc) (data : Bytes) :
    (unpackFields (pre ++ d :: post) data)[pre.length]? = some (d.name, unpackField d (data.drop (fixedSize pre))) := by
  rw [unpackFields_append, List.getElem?_append_right (by simp)]
  simp [unpackFields]

theorem slice_add (s : Bytes) (i n : Nat) : slice s i (i + n) = (s.drop i).take n := by
  rw [slice, Nat.add_sub_cancel_left]

theorem unpackField_int {d : FieldDesc} {w : Nat} {signed : Bool} (h : fieldKind d.tag = some (.int w signed))
    (buf : Bytes) : unpackField d buf = .int (decodeInt (buf.take w) signed) := by
  simp only [unpackField, h]

theorem unpackField_fixed {d : FieldDesc} (h : fieldKind d.tag = some .fixed) (buf : Bytes) :
    unpackField d buf = .bytes (buf.take d.n.toNat) := by
  simp only [unpackField, h]

theorem unpackField_greedy {d : FieldDesc} (h : fieldKind d.tag = some .greedy) (buf : Bytes) :
    unpackField d buf = .bytes buf := by
  simp only [unpackField, h]

/-- An integer field is read from the `w` bytes behind the fields before it. -/
theorem unpackFields_int {pre : Layout} {d : FieldDesc} {w : Nat} {signed : Bool}
    (h : fieldKind d.tag = some (.int w signed)) (post : Layout) (data : Bytes) :
    (unpackFields (pre ++ d :: post) data)[pre.length]? =
      some (d.name, .int (decodeInt (slice data (fixedSize pre) (fixedSize pre + w)) signed)) := by
  rw [unpackFields_getElem?, unpackField_int h, slice_add]

/-- A `bytes(N)` field is the `N` bytes behind the fields before it. -/
theorem unpackFields_fixed {pre : Layout} {d : FieldDesc} (h : fieldKind d.tag = some .fixed) (post : Layout)
    (data : Bytes) : (unpackFields (pre ++ d :: post) data)[pre.length]? =
      some (d.name, .bytes (slice data (fixedSize pre) (fixedSize pre + d.n.toNat))) := by
  rw [unpackFields_getElem?, unpackField_fixed h, slice_add]

/-- A greedy field is all the bytes behind the fields before it. -/
theorem unpackFields_greedy {pre : Layout} {d : FieldDesc} (h : fieldKind d.tag = some .greedy) (post : Layout)
    (data : Bytes) : (unpackFields (pre ++ d :: post) data)[pre.length]? =
      some (d.name, .bytes (data.drop (fixedSize pre))) := by
  rw [unpackFields_getElem?, unpackField_greedy h]

theorem unpack_short {lay : Layout} {data : Bytes} (hwf : layoutOk lay = true) (h : data.length < fixedSize lay) :
    unpack lay data = .error (lengthError .short) := by
  have hshort : decide (fixedSize lay ≤ data.length) = false := decide_eq_false (Nat.not_le.2 h)
  rw [unpack, (layoutOk_iff lay).1 hwf, hshort]
  rfl

theorem unpack_long {lay : Layout} {data : Bytes} (hwf : layoutOk lay = true) (hg : greedyLayout lay = false)
    (h : fixedSize lay < data.length) : unpack lay data = .error (lengthError .long) := by
  have hfits : decide (fixedSize lay ≤ data.length) = true := decide_eq_true h.le
  have hlong : decide (data.length ≤ fixedSize lay) = false := decide_eq_false (Nat.not_le.2 h)
  rw [unpack, (layoutOk_iff lay).1 hwf, hfits, hg, hlong]
  rfl

theorem unpack_of_layout_error {lay : Layout} {r : Raise} (h : wfLayout lay = .error r) (data : Bytes) :
    unpack lay data = .error r := by
  rw [unpack, h]
  rfl

/-- Settles O34: `unpack` either decodes or raises at the first of its three checks, and each field is read behind the
fields before it, as its tag says. -/
theorem unpackDecodesFittingBuffer : Obligations.UnpackDecodesFittingBuffer := by
  unfold Obligations.UnpackDecodesFittingBuffer
  constructor
  · intro lay data s
    refine ⟨decode_unpack_command lay data, fun hfits => ?_, fun r hr => ?_, fun hwf hshort => ?_,
      fun hwf hg hlong => ?_⟩
    · exact exec_unpack_of_ok (unpack_eq_ok.2 ⟨hfits, rfl⟩) s
    · exact exec_unpack_of_error (unpack_of_layout_error hr data) s
    · exact exec_unpack_of_error (unpack_short hwf hshort) s
    · exact exec_unpack_of_error (unpack_long hwf hg hlong) s
  · intro pre post d data pos valueIs number
    have hnumber (w : Nat) (signed : Bool) (h : fieldKind d.tag = some (.int w signed)) : number w signed :=
      unpackFields_int h post data
    refine ⟨unpackFields_length _ data, fun h => hnumber 1 false ?_, fun h => hnumber 2 false ?_,
      fun h => hnumber 4 false ?_, fun h => hnumber 1 true ?_, fun h => hnumber 2 true ?_,
      fun h => hnumber 4 true ?_, fun h => unpackFields_fixed ?_ post data,
      fun h => unpackFields_greedy ?_ post data⟩
    all_goals
      rw [h]
      rfl

end Sys2Proof.Machine
end

section
/-! Packing (spec/43_field_codec.md R177, R180): each of `pack`'s checks passes over what comes before its first
offender and raises there, and the encoding loop lays legal fields in front of what follows. -/

namespace Sys2Proof.Machine

/-- Pairs of known names leave the check to the rest. -/
theorem checkUnknown_append {lay : Layout} {pre : Values} (rest : Values)
    (hpre : ∀ p ∈ pre, p.1 ∈ lay.map FieldDesc.name) :
    checkUnknown lay (pre ++ rest) = checkUnknown lay rest := by
  induction pre with
  | nil => rfl
  | cons p pre ih =>
    obtain ⟨hp, hpre⟩ := List.forall_mem_cons.1 hpre
    calc checkUnknown lay (p :: (pre ++ rest)) = checkUnknown lay (pre ++ rest) := if_pos (by simpa using hp)
      _ = checkUnknown lay rest := ih hpre

theorem checkUnknown_of_known {lay : Layout} {vals : Values} (h : ∀ p ∈ vals, p.1 ∈ lay.map FieldDesc.name) :
    checkUnknown lay vals = .ok () := by
  simpa [checkUnknown] using checkUnknown_append [] h

theorem checkUnknown_cons_unknown {lay : Layout} {k : Name} (v : FieldValue) (rest : Values)
    (h : k ∉ lay.map FieldDesc.name) : checkUnknown lay ((k, v) :: rest) = .error (unknownField k) :=
  if_neg (by simpa using h)

/-- Pairs of distinct fresh names only add their names to those seen. -/
theorem checkDup_append {pre : Values} {seen : List Name} (rest : Values) (hnames : (pre.map Prod.fst).Nodup)
    (hseen : (pre.map Prod.fst).Disjoint seen) :
    checkDup seen (pre ++ rest) = checkDup ((pre.map Prod.fst).reverse ++ seen) rest := by
  induction pre generalizing seen with
  | nil => rfl
  | cons p pre ih =>
    obtain ⟨hp, hnames⟩ := List.nodup_cons.1 hnames
    obtain ⟨hps, hseen⟩ := List.disjoint_cons_left.1 hseen
    have hseen' : (pre.map Prod.fst).Disjoint (p.1 :: seen) := List.disjoint_cons_right.2 ⟨hp, hseen⟩
    calc checkDup seen (p :: (pre ++ rest)) = checkDup (p.1 :: seen) (pre ++ rest) := if_neg (by simpa using hps)
      _ = checkDup ((pre.map Prod.fst).reverse ++ p.1 :: seen) rest := ih hnames hseen'
      _ = checkDup (((p :: pre).map Prod.fst).reverse ++ seen) rest := by simp

theorem checkDup_of_nodup {vals : Values} (h : (vals.map Prod.fst).Nodup) : checkDup [] vals = .ok () := by
  simpa [checkDup] using checkDup_append (seen := []) [] h (List.disjoint_nil_right _)

theorem checkDup_cons_seen {seen : List Name} {k : Name} (v : FieldValue) (rest : Values) (h : k ∈ seen) :
    checkDup seen ((k, v) :: rest) = .error (fieldError .dup k) :=
  if_pos (by simpa using h)

theorem lookupValue_isSome_iff {vals : Values} {nm : Name} :
    (lookupValue nm vals).isSome = true ↔ nm ∈ vals.map Prod.fst := by
  rw [Option.isSome_iff_ne_none, Ne, lookupValue_eq_none, not_not]

/-- Descriptors that some pair names leave the check to the rest. -/
theorem checkMissing_append {vals : Values} {pre : Layout} (rest : Layout)
    (hpre : ∀ e ∈ pre, e.name ∈ vals.map Prod.fst) :
    checkMissing vals (pre ++ rest) = checkMissing vals rest := by
  induction pre with
  | nil => rfl
  | cons d pre ih =>
    obtain ⟨hd, hpre⟩ := List.forall_mem_cons.1 hpre
    calc checkMissing vals (d :: (pre ++ rest)) = checkMissing vals (pre ++ rest) :=
          if_pos (lookupValue_isSome_iff.2 hd)
      _ = checkMissing vals rest := ih hpre

theorem checkMissing_of_given {vals : Values} {lay : Layout} (h : ∀ d ∈ lay, d.name ∈ vals.map Prod.fst) :
    checkMissing vals lay = .ok () := by
  simpa [checkMissing] using checkMissing_append [] h

theorem checkMissing_cons_missing {vals : Values} {d : FieldDesc} (rest : Layout) (h : d.name ∉ vals.map Prod.fst) :
    checkMissing vals (d :: rest) = .error (missingField d.name) :=
  if_neg (mt lookupValue_isSome_iff.1 h)

theorem packFields_cons {vals : Values} {d : FieldDesc} {v : FieldValue} (h : lookupValue d.name vals = some v)
    (rest : Layout) : packFields vals (d :: rest) =
      (packField d v >>= fun b => packFields vals rest >>= fun bs => .ok (b ++ bs)) := by
  simp only [packFields, h]

theorem encodedFields_cons {vals : Values} {d : FieldDesc} {v : FieldValue} (h : lookupValue d.name vals = some v)
    (rest : Layout) : encodedFields (d :: rest) vals = fieldBytes d v ++ encodedFields rest vals := by
  simp [encodedFields, givenValue_eq_lookup, h]

/-- The encoding loop lays legal fields in front of what it makes of the rest. -/
theorem packFields_append {vals : Values} {pre : Layout} (rest : Layout)
    (hpre : ∀ e ∈ pre, ∃ w, lookupValue e.name vals = some w ∧ LegalValue e w) :
    packFields vals (pre ++ rest) = (packFields vals rest).map (encodedFields pre vals ++ ·) := by
  induction pre with
  | nil => cases h : packFields vals rest <;> simp [h, encodedFields, Except.map]
  | cons d pre ih =>
    obtain ⟨⟨w, hw, hlegal⟩, hpre⟩ := List.forall_mem_cons.1 hpre
    rw [List.cons_append, packFields_cons hw, packField_of_legal hlegal, except_bind_ok, ih hpre,
      encodedFields_cons hw]
    cases packFields vals rest with
    | ok bs => simp [Except.map]
    | error r => rfl

theorem packFields_of_legal {vals : Values} {lay : Layout}
    (h : ∀ d ∈ lay, ∃ v, lookupValue d.name vals = some v ∧ LegalValue d v) :
    packFields vals lay = .ok (encodedFields lay vals) := by
  simpa [packFields, Except.map] using packFields_append [] h

theorem packFields_append_error {vals : Values} {pre post : Layout} {d : FieldDesc} {v : FieldValue} {r : Raise}
    (hpre : ∀ e ∈ pre, ∃ w, lookupValue e.name vals = some w ∧ LegalValue e w)
    (hv : lookupValue d.name vals = some v) (hr : packField d v = .error r) :
    packFields vals (pre ++ d :: post) = .error r := by
  rw [packFields_append _ hpre, packFields_cons hv, hr]
  rfl

theorem pack_of_layout_error {lay : Layout} {r : Raise} (h : wfLayout lay = .error r) (vals : Values) :
    pack lay vals = .error r := by
  rw [pack, h]
  rfl

section
variable {lay : Layout} {vals : Values} (hwf : layoutOk lay = true)
include hwf

theorem pack_of_layoutOk : pack lay vals = (checkUnknown lay vals >>= fun _ => checkDup [] vals >>= fun _ =>
    checkMissing vals lay >>= fun _ => packFields vals lay) := by
  rw [pack, (layoutOk_iff lay).1 hwf, except_bind_ok]

theorem pack_of_unknown {r : Raise} (h : checkUnknown lay vals = .error r) : pack lay vals = .error r := by
  rw [pack_of_layoutOk hwf, h, except_bind_error]

variable (hknown : ∀ p ∈ vals, p.1 ∈ lay.map FieldDesc.name)
include hknown

theorem pack_of_dup {r : Raise} (h : checkDup [] vals = .error r) : pack lay vals = .error r := by
  rw [pack_of_layoutOk hwf, checkUnknown_of_known hknown, except_bind_ok, h, except_bind_error]

variable (honce : (vals.map Prod.fst).Nodup)
include honce

theorem pack_of_missing {r : Raise} (h : checkMissing vals lay = .error r) : pack lay vals = .error r := by
  rw [pack_of_layoutOk hwf, checkUnknown_of_known hknown, except_bind_ok, checkDup_of_nodup honce, except_bind_ok, h,
    except_bind_error]

/-- Once every check has passed, `pack` is its encoding loop. -/
theorem pack_eq_packFields (hgiven : ∀ d ∈ lay, d.name ∈ vals.map Prod.fst) :
    pack lay vals = packFields vals lay := by
  rw [pack_of_layoutOk hwf, checkUnknown_of_known hknown, except_bind_ok, checkDup_of_nodup honce, except_bind_ok,
    checkMissing_of_given hgiven, except_bind_ok]

end

theorem pack_of_legal {lay : Layout} {vals : Values} (h : PackLegal lay vals) :
    pack lay vals = .ok (encodedFields lay vals) := by
  obtain ⟨hwf, hknown, honce, hgiven⟩ := h
  have hnamed : ∀ d ∈ lay, d.name ∈ vals.map Prod.fst := fun d hd => by
    obtain ⟨v, hv, -⟩ := hgiven d hd
    exact List.mem_map_of_mem (f := Prod.fst) hv
  rw [pack_eq_packFields hwf hknown honce hnamed]
  refine packFields_of_legal fun d hd => ?_
  obtain ⟨v, hv, hlegal⟩ := hgiven d hd
  exact ⟨v, lookupValue_of_mem honce hv, hlegal⟩

/-- Settles O33: the checks come in `pack`'s order, each raising at its first offender, and the encoding loop succeeds
on legal values and raises at the first that is not. -/
theorem packFollowsItsChecks : Obligations.PackFollowsItsChecks := by
  unfold Obligations.PackFollowsItsChecks
  intro lay vals s
  refine ⟨decode_pack_command lay vals, fun hlegal => exec_pack_of_ok (pack_of_legal hlegal) s,
    fun r hr => exec_pack_of_error (pack_of_layout_error hr vals) s, fun hwf => ⟨?unknown, fun hknown =>
      ⟨?dup, fun honce => ⟨?missing, fun hgiven => ?value⟩⟩⟩⟩
  case unknown =>
    rintro pre k v post rfl hpre hk
    have hcheck : checkUnknown lay (pre ++ (k, v) :: post) = .error (unknownField k) :=
      (checkUnknown_append _ hpre).trans (checkUnknown_cons_unknown v post hk)
    exact exec_pack_of_error (pack_of_unknown hwf hcheck) s
  case dup =>
    rintro pre k v post rfl hpre hk
    have hcheck : checkDup [] (pre ++ (k, v) :: post) = .error (fieldError .dup k) :=
      (checkDup_append _ hpre (List.disjoint_nil_right _)).trans (checkDup_cons_seen v post (by simpa using hk))
    exact exec_pack_of_error (pack_of_dup hwf hknown hcheck) s
  case missing =>
    rintro pre d post rfl hpre hd
    have hcheck : checkMissing vals (pre ++ d :: post) = .error (missingField d.name) :=
      (checkMissing_append _ hpre).trans (checkMissing_cons_missing post hd)
    exact exec_pack_of_error (pack_of_missing hwf hknown honce hcheck) s
  case value =>
    rintro pre d post v rfl hpre hv hillegal
    have htag : (fieldKind d.tag).isSome = true :=
      (wfLayout_eq_ok_iff.1 ((layoutOk_iff _).1 hwf)).1 d (by simp)
    have hfields : packFields vals (pre ++ d :: post) = .error ⟨.fieldValue, valueFault d v, .name d.name⟩ := by
      refine packFields_append_error (fun e he => ?_) (lookupValue_of_mem honce hv)
        (packField_of_not_legal htag hillegal)
      obtain ⟨w, hw, hlegal⟩ := hpre e he
      exact ⟨w, lookupValue_of_mem honce hw, hlegal⟩
    exact exec_pack_of_error ((pack_eq_packFields hwf hknown honce hgiven).trans hfields) s

end Sys2Proof.Machine
end

section
/-! The correlation cell (spec/44_registry.md R215 to R218): everything an instruction can do to it, one case per end a
command has, and which of the cases are writes. -/

namespace Sys2Proof.Machine

/-- Two blocks agree on the correlation cell. -/
def Block.SameCell (b c : Block) : Prop := c.lastOp = b.lastOp ∧ c.lastValid = b.lastValid

theorem sameCell_refl (b : Block) : b.SameCell b := ⟨rfl, rfl⟩

theorem sameCell_withCrc (b : Block) (c : Half) : b.SameCell (b.withCrc c) := ⟨rfl, rfl⟩

theorem sameCell_withDetector (b : Block) (d : DetState) (buf : Bytes) : b.SameCell (b.withDetector d buf) := ⟨rfl, rfl⟩

/-- The answers that deliver a packet record: those of ASSEMBLE and of DISASSEMBLE (R270). -/
def Answer.hasPacket : Answer → Bool
  | .assembled _ _ | .packet _ => true
  | .none | .crc _ | .stuffed _ _ | .unstuffed _ _ _ _ | .bytes _ | .values _ | .value _ | .detState _ => false

/-- The ends of an instruction, told apart by what each does to the correlation cell (R215): `CellEffect s i t` says how
`i` leads from `s` to `t`. -/
inductive CellEffect (s : State) : Instr → State → Prop where
  /-- A successful ASSEMBLE records its entry's opcode. -/
  | assembled {e : Entry} {id : Byte} {values : Values} {params : Bytes} (he : e ∈ s.params.registry.entries) :
      CellEffect s (.assemble e.name id values)
        (s.afterOk (s.block.recordInstruction e.op) (assembledPacket e id params values))
  /-- A successful disassembly of an instruction frame records the frame's opcode, an entry's. -/
  | instructionFrame {i : Instr} {op : Byte} {p : Packet} (hi : i ≠ .reset) (hraw : rawOperand i = p.raw)
      (hop : op = byteAt p.raw 7) (hentry : ∃ e ∈ s.params.registry.entries, e.op = op) (hdir : p.dir = .instruction) :
      CellEffect s i (s.afterOk (s.block.recordInstruction op) (.packet p))
  /-- A successful disassembly of a status frame only reads the cell (R217). -/
  | statusFrame {i : Instr} {p : Packet} (hi : i ≠ .reset) (hdir : p.dir = .status) :
      CellEffect s i (s.afterOk s.block (.packet p))
  /-- RESET clears the cell. -/
  | cleared : CellEffect s .reset (s.afterOk Block.reset .none)
  /-- A success that delivers no packet record keeps the cell. -/
  | kept {i : Instr} {b : Block} {v : Answer} (hi : i ≠ .reset) (hb : s.block.SameCell b)
      (hv : v.hasPacket = false) : CellEffect s i (s.afterOk b v)
  /-- An error keeps the cell (R331). -/
  | failed {i : Instr} {raw : Bytes} {r : Raise} (hi : i ≠ .reset) : CellEffect s i (s.afterError raw r)

section
variable {i : Instr} {s t : State}

/-- A command whose successes keep the cell and deliver no packet record. -/
theorem cellEffect_of_answer_map {α : Type} {x : Except Raise α} {raw : Bytes} {g : α → Block} {f : α → Answer}
    (h : s.answer raw (x.map fun a => (g a, f a)) = .next t) (hi : i ≠ .reset)
    (hg : ∀ a, s.block.SameCell (g a)) (hf : ∀ a, (f a).hasPacket = false) : CellEffect s i t := by
  cases x with
  | ok a =>
    obtain rfl : s.afterOk (g a) (f a) = t := Host.Outcome.next.inj h
    exact .kept hi (hg a) (hf a)
  | error r =>
    obtain rfl : s.afterError raw r = t := Host.Outcome.next.inj h
    exact .failed hi

/-- A command that cannot fail, keeps the cell and delivers no packet record. -/
theorem cellEffect_of_succeed {b : Block} {v : Answer} (h : s.succeed b v = .next t) (hi : i ≠ .reset)
    (hb : s.block.SameCell b) (hv : v.hasPacket = false) : CellEffect s i t := by
  obtain rfl : s.afterOk b v = t := Host.Outcome.next.inj h
  exact .kept hi hb hv

/-- A frame handed to the disassembler: the direction it resolves to decides whether the cell is written (R280). -/
theorem cellEffect_of_disassembleFrame (h : disassembleFrame (rawOperand i) s = .next t) (hi : i ≠ .reset) :
    CellEffect s i t := by
  rcases answer_cases h with ⟨b, v, hok, rfl⟩ | ⟨r, -, rfl⟩
  · obtain ⟨-, r, hr, -, rfl, rfl⟩ := disassemble_eq_ok hok
    rcases resolve_eq_ok hr with ⟨-, e, -, -, -, rfl⟩ | ⟨-, e, he, hop, rfl⟩
    · exact .statusFrame hi rfl
    · exact .instructionFrame hi rfl rfl ⟨e, he, hop⟩ rfl
  · exact .failed hi

theorem cellEffect_of_assemble {iname : Name} {id : Byte} {values : Values}
    (h : exec (.assemble iname id values) s = .next t) : CellEffect s (.assemble iname id values) t := by
  rcases answer_cases h with ⟨b, v, hok, rfl⟩ | ⟨r, -, rfl⟩
  · obtain ⟨e, he, rfl, -, params, -, -, rfl, rfl⟩ := assemble_eq_ok hok
    exact .assembled he
  · exact .failed (by simp)

theorem cellEffect_of_reset (h : exec .reset s = .next t) : CellEffect s .reset t := by
  obtain rfl : s.afterOk Block.reset .none = t := Host.Outcome.next.inj h
  exact .cleared

/-- Every instruction's end is one of the ends of `CellEffect`; a wire frame's is that of DISASSEMBLE (R282). -/
theorem cellEffect_of_exec (h : exec i s = .next t) : CellEffect s i t := by
  cases i with
  | assemble => exact cellEffect_of_assemble h
  | reset => exact cellEffect_of_reset h
  | crc16 | crcFeed => exact cellEffect_of_succeed h (by simp) (sameCell_withCrc _ _) rfl
  | detClear => exact cellEffect_of_succeed h (by simp) (sameCell_withDetector _ _ _) rfl
  | detPush => exact cellEffect_of_answer_map h (by simp) (fun _ => sameCell_withDetector _ _ _) fun _ => rfl
  | pack | unpack | getField => exact cellEffect_of_answer_map h (by simp) (fun _ => sameCell_refl _) fun _ => rfl
  | stuff w0 data =>
    exact cellEffect_of_answer_map ((exec_stuff w0 data s).symm.trans h) (by simp) (fun _ => sameCell_refl _)
      fun _ => rfl
  | unstuff w0 p0 data =>
    exact cellEffect_of_answer_map ((exec_unstuff w0 p0 data s).symm.trans h) (by simp) (fun _ => sameCell_refl _)
      fun _ => rfl
  | disassemble | status | ping | read | write | regWrite | action | factoryReset | reboot | clear | syncRead
  | syncWrite | bulkRead | bulkWrite => exact cellEffect_of_disassembleFrame h (by simp)

/-- Only a successful ASSEMBLE delivers a built frame. -/
theorem cell_of_assembled (h : CellEffect s i t) {f : Bytes} {p : Packet}
    (hres : t.result = some (.ok (.assembled f p))) :
    ∃ iname id values e, i = .assemble iname id values ∧ e ∈ s.params.registry.entries ∧ e.name = iname ∧
      t.block.lastOp = e.op ∧ t.block.lastValid = true := by
  cases h with
  | assembled he => exact ⟨_, _, _, _, rfl, he, rfl, rfl, rfl⟩
  | kept _ _ hv => cases hres; cases hv
  | instructionFrame | statusFrame | cleared | failed => cases hres

/-- Only a successful disassembly of an instruction frame delivers an instruction packet alone. -/
theorem cell_of_instruction_packet (h : CellEffect s i t) {p : Packet} (hres : t.result = some (.ok (.packet p)))
    (hp : p.dir = .instruction) :
    rawOperand i = p.raw ∧ (∃ e ∈ s.params.registry.entries, e.op = byteAt p.raw 7) ∧
      t.block.lastOp = byteAt p.raw 7 ∧ t.block.lastValid = true := by
  cases h with
  | instructionFrame _ hraw hop hentry =>
    cases hres
    subst hop
    exact ⟨hraw, hentry, rfl, rfl⟩
  | statusFrame _ hdir =>
    cases hres
    exact absurd (hp.symm.trans hdir) (by decide)
  | kept _ _ hv => cases hres; cases hv
  | assembled | cleared | failed => cases hres

theorem cell_of_reset (h : CellEffect s .reset t) : t.block.lastOp = 0x00 ∧ t.block.lastValid = false := by
  cases h with
  | cleared => exact ⟨rfl, rfl⟩
  | instructionFrame hi | statusFrame hi | kept hi | failed hi => exact absurd rfl hi

/-- An end that is none of the three writes keeps the cell. -/
theorem sameCell_of_no_write (h : CellEffect s i t) (hi : i ≠ .reset)
    (hbuilt : ∀ f p, t.result ≠ some (.ok (.assembled f p)))
    (hstatus : ∀ p, t.result = some (.ok (.packet p)) → p.dir = .status) : s.block.SameCell t.block := by
  cases h with
  | assembled => exact absurd rfl (hbuilt _ _)
  | instructionFrame _ _ _ _ hdir => exact absurd (hdir.symm.trans (hstatus _ rfl)) (by decide)
  | cleared => exact absurd rfl hi
  | kept _ hb => exact hb
  | statusFrame | failed => exact sameCell_refl s.block

end

/-- Settles O22: each clause reads one kind of end off `CellEffect`, which every instruction meets. -/
theorem cellWrittenExactlyOnSuccess : Obligations.CellWrittenExactlyOnSuccess := by
  unfold Obligations.CellWrittenExactlyOnSuccess
  intro i s t h
  have heffect := cellEffect_of_exec h
  refine ⟨?assembled, ?instruction, ?reset, ?other⟩
  case assembled => exact fun _ _ hres => cell_of_assembled heffect hres
  case instruction => exact fun _ hres hp => cell_of_instruction_packet heffect hres hp
  case reset =>
    rintro rfl
    exact cell_of_reset heffect
  case other => exact sameCell_of_no_write heffect

end Sys2Proof.Machine
end

section
/-! The frame-boundary detector (spec/45_frame_detector.md R240 to R249): what a push does in each phase, one equation
per branch of the transition function, and from those the commands DET_PUSH and DET_CLEAR. -/

namespace Sys2Proof.Machine

theorem decode_detPush_command (b : Byte) : decode (.command { code := 0x30, b := b }) = .ok (.detPush b) := rfl

theorem decode_detClear_command : decode (.command { code := 0x31 }) = .ok .detClear := rfl

section
variable {buf : Bytes} {b : Byte}

/-- The first two header bytes are kept (R241). -/
theorem detHeaderPush_of_ff (hlen : buf.length = 0 ∨ buf.length = 1) (hb : b = 0xFF) :
    detHeaderPush buf b = (.starting, buf ++ [b]) := if_pos ⟨hlen, hb⟩

/-- The third header byte starts the body phase (R241). -/
theorem detHeaderPush_of_fd (hlen : buf.length = 2) (hb : b = 0xFD) :
    detHeaderPush buf b = (.inProgress, buf ++ [b]) := by
  have hnot : ¬ ((buf.length = 0 ∨ buf.length = 1) ∧ b = 0xFF) := by omega
  exact (if_neg hnot).trans (if_pos ⟨hlen, hb⟩)

/-- A byte that does not continue the header restarts the search (R241). -/
theorem detHeaderPush_of_mismatch (hff : ¬ ((buf.length = 0 ∨ buf.length = 1) ∧ b = 0xFF))
    (hfd : ¬ (buf.length = 2 ∧ b = 0xFD)) : detHeaderPush buf b = detRestart b :=
  (if_neg hff).trans (if_neg hfd)

/-- The test for the declared length after a push, in terms of the buffer before it (R244). -/
theorem detReached_push_iff :
    detReached (buf ++ [b]) = true ↔ 6 ≤ buf.length ∧ buf.length + 1 = declared (buf ++ [b]) + 7 := by
  simp [detReached, declared]

/-- A nonzero reserved byte restarts the search (R243). -/
theorem detBodyPush_of_reserved (hlen : buf.length = 3) (hb : b ≠ 0x00) : detBodyPush buf b = detRestart b :=
  if_pos ⟨by simp [hlen], hb⟩

/-- A byte that passes the reserved byte's check is kept, and the declared length decides the state (R244). -/
theorem detBodyPush_of_not_reserved (h : ¬ (buf.length = 3 ∧ b ≠ 0x00)) :
    detBodyPush buf b = if detReached (buf ++ [b]) then (.complete, buf ++ [b]) else (.inProgress, buf ++ [b]) :=
  if_neg (by simpa using h)

/-- The byte that reaches the declared length completes the frame (R244). -/
theorem detBodyPush_of_reached (hlen : 6 ≤ buf.length) (hdecl : buf.length + 1 = declared (buf ++ [b]) + 7) :
    detBodyPush buf b = (.complete, buf ++ [b]) := by
  rw [detBodyPush_of_not_reserved (by omega), if_pos (detReached_push_iff.2 ⟨hlen, hdecl⟩)]

/-- Any other body byte is kept and the count goes on (R244). -/
theorem detBodyPush_of_not_reached (hres : ¬ (buf.length = 3 ∧ b ≠ 0x00))
    (hreach : ¬ (6 ≤ buf.length ∧ buf.length + 1 = declared (buf ++ [b]) + 7)) :
    detBodyPush buf b = (.inProgress, buf ++ [b]) := by
  rw [detBodyPush_of_not_reserved hres, if_neg (mt detReached_push_iff.1 hreach)]

end

section
variable {s : State} {b : Byte}

/-- IDLE and STARTING share the header phase (R241). -/
theorem detPush_of_header {d : DetState} (buf : Bytes) (h : d = .idle ∨ d = .starting) :
    detPush d buf b = .ok (detHeaderPush buf b) := by
  obtain rfl | rfl := h <;> rfl

/-- A push whose transition is known ends in a success that writes the detector alone (R248). -/
theorem exec_detPush_of_ok {d : DetState} {buf : Bytes}
    (h : detPush s.block.detState s.block.detBuf b = .ok (d, buf)) :
    exec (.detPush b) s = .next (s.afterOk { s.block with detState := d, detBuf := buf } (.detState d)) := by
  rw [exec_detPush, h]

/-- A push at COMPLETE is refused (R245). -/
theorem exec_detPush_of_complete (h : s.block.detState = .complete) :
    exec (.detPush b) s = .next (s.afterError [] (detectorBusy b)) := by
  rw [exec_detPush, h]
  rfl

/-- A restart considers the new byte alone (R242). -/
theorem exec_detPush_of_restart (h : detPush s.block.detState s.block.detBuf b = .ok (detRestart b)) :
    (b = 0xFF → exec (.detPush b) s =
      .next (s.afterOk { s.block with detState := .starting, detBuf := [0xFF] } (.detState .starting))) ∧
    (b ≠ 0xFF → exec (.detPush b) s =
      .next (s.afterOk { s.block with detState := .idle, detBuf := [] } (.detState .idle))) :=
  ⟨fun hb => exec_detPush_of_ok (h.trans (congrArg Except.ok (if_pos hb))),
    fun hb => exec_detPush_of_ok (h.trans (congrArg Except.ok (if_neg hb)))⟩

end

/-- DET_CLEAR ends in a success that empties the detector (R249). -/
theorem exec_detClear (s : State) :
    exec .detClear s = .next (s.afterOk { s.block with detState := .idle, detBuf := [] } .none) := rfl

/-- Settles O37: the detector's state selects the phase, and each case of the phase is one branch of its transition
function. -/
theorem detPushFollowsTransitions : Obligations.DetPushFollowsTransitions := by
  unfold Obligations.DetPushFollowsTransitions
  intro b s
  refine ⟨decode_detPush_command b, exec_detPush_of_complete, fun hphase => ?header, fun hphase => ?body⟩
  case header =>
    have hpush := detPush_of_header (b := b) s.block.detBuf hphase
    refine ⟨fun hlen hb => ?ff, fun hlen hb => ?fd, fun hff hfd => ?mismatch⟩
    case ff => exact exec_detPush_of_ok (hpush.trans (congrArg _ (detHeaderPush_of_ff hlen hb)))
    case fd => exact exec_detPush_of_ok (hpush.trans (congrArg _ (detHeaderPush_of_fd hlen hb)))
    case mismatch => exact exec_detPush_of_restart (hpush.trans (congrArg _ (detHeaderPush_of_mismatch hff hfd)))
  case body =>
    have hpush : detPush s.block.detState s.block.detBuf b = .ok (detBodyPush s.block.detBuf b) := by rw [hphase]; rfl
    refine ⟨fun hlen hb => ?reserved, fun hlen hdecl => ?reached, fun hres hreach => ?counting⟩
    case reserved => exact exec_detPush_of_restart (hpush.trans (congrArg _ (detBodyPush_of_reserved hlen hb)))
    case reached => exact exec_detPush_of_ok (hpush.trans (congrArg _ (detBodyPush_of_reached hlen hdecl)))
    case counting => exact exec_detPush_of_ok (hpush.trans (congrArg _ (detBodyPush_of_not_reached hres hreach)))

/-- Settles O38: the code is assigned, and the command is a success that writes the detector alone. -/
theorem detClearEmptiesDetector : Obligations.DetClearEmptiesDetector :=
  ⟨decode_detClear_command, exec_detClear⟩

end Sys2Proof.Machine
end

section
/-! The lookups and the checks a packet command is made of (spec/44_registry.md R212, R213, spec/46_packet.md R273, R275):
a check that passes leaves what follows it, and a lookup that finds nothing raises UnknownInstruction. -/

namespace Sys2Proof.Machine

theorem require_bind_of_true {c : Bool} (h : c = true) (r : Raise) {α : Type} (k : Unit → Except Raise α) :
    (require c r >>= k) = k () := by
  rw [h, require_true, except_bind_ok]

theorem require_bind_of_false {c : Bool} (h : c = false) (r : Raise) {α : Type} (k : Unit → Except Raise α) :
    (require c r >>= k) = .error r := by
  rw [h, require_false, except_bind_error]

theorem byName_of_absent {r : Registry} {nm : Name} (h : ∀ e ∈ r.entries, e.name ≠ nm) :
    byName r nm = .error (unknownName nm) := by
  cases hl : byName r nm with
  | ok e =>
    obtain ⟨he, hname⟩ := byName_eq_ok hl
    exact absurd hname (h e he)
  | error x => rw [(byName_eq_error hl).1]

theorem byOp_of_absent {r : Registry} {op : Byte} (h : ∀ e ∈ r.entries, e.op ≠ op) :
    byOp r op = .error (unknownOpcode op) := by
  cases hl : byOp r op with
  | ok e =>
    obtain ⟨he, hop⟩ := byOp_eq_ok hl
    exact absurd hop (h e he)
  | error x => rw [(byOp_eq_error hl).1]

end Sys2Proof.Machine
end

section
/-! ASSEMBLE (spec/46_packet.md R273, R274): the record it is decoded from, the frame and the packet record it builds,
and what it does at each of its checks. -/

namespace Sys2Proof.Machine

theorem decode_assemble_command (iname : Name) (id : Byte) (vals : Values) :
    decode (.command { code := 0x40, iname := iname, id := id, values := vals }) = .ok (.assemble iname id vals) := rfl

theorem packOrder_eq_inLayoutOrder (lay : Layout) (vals : Values) : packOrder lay vals = inLayoutOrder lay vals := by
  simp only [packOrder, inLayoutOrder, givenValue_eq_lookup]

/-- The CRC ASSEMBLE reports is the one recomputed over the frame it built (R124). -/
theorem frameCrc_eq_recomputedCrc (op id : Byte) (params : Bytes) :
    frameCrc op id params = recomputedCrc (buildFrame op id params) :=
  (recomputedCrc_append_halfBytes _ _).symm

/-- What ASSEMBLE returns, in terms of the frame's offsets (R80, R270). -/
theorem assembledPacket_eq (e : Entry) (id : Byte) (params : Bytes) (vals : Values) :
    assembledPacket e id params vals = .assembled (frameOf e.op id (stuffedParams e.op params))
      (instructionPacket e.name id (inLayoutOrder e.outLayout vals) (frameOf e.op id (stuffedParams e.op params))) := by
  rw [assembledPacket, frameCrc_eq_recomputedCrc, packOrder_eq_inLayoutOrder, buildFrame_eq]
  rfl

theorem exec_assemble_of_ok {s : State} {iname : Name} {id : Byte} {vals : Values} {b : Block} {v : Answer}
    (h : assemble s.params s.block iname id vals = .ok (b, v)) :
    exec (.assemble iname id vals) s = .next (s.afterOk b v) :=
  congrArg (s.answer []) h

theorem exec_assemble_of_error {s : State} {iname : Name} {id : Byte} {vals : Values} {r : Raise}
    (h : assemble s.params s.block iname id vals = .error r) :
    exec (.assemble iname id vals) s = .next (s.afterError [] r) :=
  congrArg (s.answer []) h

theorem assemble_of_unknown {p : Params} {iname : Name} (h : ∀ e ∈ p.registry.entries, e.name ≠ iname) (b : Block)
    (id : Byte) (vals : Values) : assemble p b iname id vals = .error (unknownName iname) := by
  rw [assemble, byName_of_absent h, except_bind_error]

section
variable {p : Params} {e : Entry} (he : e ∈ p.registry.entries) {id : Byte} (b : Block) (vals : Values)
include he

theorem assemble_of_illegal_id (hid : ¬ LegalPacketId id) : assemble p b e.name id vals = .error (idRange id) := by
  rw [assemble, byName_of_mem he, except_bind_ok, require_bind_of_false ((legalId_eq_false id).2 hid)]

variable (hid : LegalPacketId id)
include hid

theorem assemble_of_legal_id : assemble p b e.name id vals = (pack e.outLayout vals >>= fun params =>
    require (decide (declaredLength e.op params ≤ 0xFFFF)) frameTooLong >>= fun _ =>
      .ok (b.recordInstruction e.op, assembledPacket e id params vals)) := by
  rw [assemble, byName_of_mem he, except_bind_ok, require_bind_of_true ((legalId_iff id).2 hid)]

theorem assemble_of_pack_error {r : Raise} (hr : pack e.outLayout vals = .error r) :
    assemble p b e.name id vals = .error r := by
  rw [assemble_of_legal_id he b vals hid, hr, except_bind_error]

variable {vals} (hvals : PackLegal e.outLayout vals)
include hvals

theorem assemble_of_too_long
    (hlong : 0xFFFF < (stuffedParams e.op (encodedFields e.outLayout vals)).length + 3) :
    assemble p b e.name id vals = .error frameTooLong := by
  rw [← declaredLength_eq] at hlong
  rw [assemble_of_legal_id he b vals hid, pack_of_legal hvals, except_bind_ok,
    require_bind_of_false (decide_eq_false (Nat.not_le.2 hlong))]

theorem assemble_of_fits (hfits : (stuffedParams e.op (encodedFields e.outLayout vals)).length + 3 ≤ 0xFFFF) :
    assemble p b e.name id vals =
      .ok (b.recordInstruction e.op, assembledPacket e id (encodedFields e.outLayout vals) vals) := by
  rw [← declaredLength_eq] at hfits
  rw [assemble_of_legal_id he b vals hid, pack_of_legal hvals, except_bind_ok,
    require_bind_of_true (decide_eq_true hfits)]

end

/-- Settles O44: each clause is what `assemble` does at one of its checks, the checks before it having passed. -/
theorem assembleFollowsItsChecks : Obligations.AssembleFollowsItsChecks := by
  unfold Obligations.AssembleFollowsItsChecks
  refine ⟨decode_assemble_command, ?builds, fun iname id vals s => ⟨?unknown, ?errors⟩⟩
  case builds =>
    intro e id vals s sp he hid hvals hfits
    rw [exec_assemble_of_ok (assemble_of_fits he s.block hid hvals hfits), assembledPacket_eq]
    rfl
  case unknown => exact fun habsent => exec_assemble_of_error (assemble_of_unknown habsent s.block id vals)
  case errors =>
    rintro e he rfl
    refine ⟨fun hid => ?_, fun hid => ⟨fun r hr => ?_, fun hvals hlong => ?_⟩⟩
    · exact exec_assemble_of_error (assemble_of_illegal_id he s.block vals hid)
    · exact exec_assemble_of_error (assemble_of_pack_error he s.block vals hid hr)
    · exact exec_assemble_of_error (assemble_of_too_long he s.block hid hvals hlong)

end Sys2Proof.Machine
end

section
/-! Opening a frame (spec/46_packet.md R275 to R277): what DISASSEMBLE raises at each structural check, and, once all
four have passed, at the CRC check and the escape check. -/

namespace Sys2Proof.Machine

theorem decode_disassemble_command (f : Bytes) :
    decode (.command { code := 0x41, frame := f }) = .ok (.disassemble f) := rfl

theorem exec_disassemble_of_ok {s : State} {f : Bytes} {b : Block} {v : Answer}
    (h : disassemble s.params s.block f = .ok (b, v)) : exec (.disassemble f) s = .next (s.afterOk b v) :=
  congrArg (s.answer f) h

theorem exec_disassemble_of_error {s : State} {f : Bytes} {r : Raise}
    (h : disassemble s.params s.block f = .error r) : exec (.disassemble f) s = .next (s.afterError f r) :=
  congrArg (s.answer f) h

/-- A frame that does not open raises what opening it raised; the correlation cell plays no part (R281). -/
theorem exec_disassemble_of_open_error {s : State} {f : Bytes} {r : Raise}
    (h : openFrame s.params.crcPolicy f = .error r) : exec (.disassemble f) s = .next (s.afterError f r) := by
  refine exec_disassemble_of_error ?_
  rw [disassemble, h, except_bind_error]

/-- The checks of `openFrame` and what it returns, in the terms the statements are made in. -/
theorem openFrame_eq (policy : CrcPolicy) (f : Bytes) : openFrame policy f =
    (require (decide (10 ≤ f.length)) (malformed .short) >>= fun _ =>
      require (decide (slice f 0 4 = [0xFF, 0xFF, 0xFD, 0x00])) (malformed .header) >>= fun _ =>
      require (decide (3 ≤ declared f ∧ f.length = declared f + 7)) (malformed .length) >>= fun _ =>
      require (legalId (byteAt f 4)) (malformedId (byteAt f 4)) >>= fun _ =>
      require (decide (policy = .strict → carriedCrc f = recomputedCrc f)) (malformed .crc) >>= fun _ =>
      require (decide ((unstuffedParams f).esc = false ∧ (unstuffedParams f).pEnd = false))
        (malformed .escape) >>= fun _ =>
      .ok ⟨byteAt f 4, byteAt f 7, (unstuffedParams f).out, carriedCrc f,
        decide (carriedCrc f = recomputedCrc f)⟩) := by
  have hheader : (slice f 0 4 == hdr) = decide (slice f 0 4 = [0xFF, 0xFF, 0xFD, 0x00]) := Bool.beq_eq_decide_eq _ _
  have hlength : (decide (3 ≤ le16 (byteAt f 5) (byteAt f 6)) &&
      decide (f.length = le16 (byteAt f 5) (byteAt f 6) + 7)) =
        decide (3 ≤ declared f ∧ f.length = declared f + 7) := (Bool.decide_and _ _).symm
  have hreceived : receivedCrc f = carriedCrc f := rfl
  have hcomputed : computedCrc f = recomputedCrc f := by rw [computedCrc, recomputedCrc, slice_zero]
  have hcrc : (carriedCrc f == recomputedCrc f || policy == .lenient) =
      decide (policy = .strict → carriedCrc f = recomputedCrc f) := by
    rw [Bool.eq_iff_iff]
    cases policy <;> simp
  have hparams : frameParams f = unstuffedParams f := rfl
  have hescape : (!((unstuffedParams f).esc || (unstuffedParams f).pEnd)) =
      decide ((unstuffedParams f).esc = false ∧ (unstuffedParams f).pEnd = false) := by
    rw [Bool.eq_iff_iff]
    simp
  rw [openFrame, hheader, hlength, hreceived, hcomputed, hcrc, hparams, hescape, Bool.beq_eq_decide_eq]

/-- A frame that passes the four structural checks of R275. -/
structure StructurallySound (f : Bytes) : Prop where
  long : 10 ≤ f.length
  header : slice f 0 4 = [0xFF, 0xFF, 0xFD, 0x00]
  length : 3 ≤ declared f ∧ f.length = declared f + 7
  id : LegalPacketId (byteAt f 4)

section
variable {f : Bytes} (policy : CrcPolicy)

theorem openFrame_of_short (hshort : f.length < 10) : openFrame policy f = .error (malformed .short) := by
  rw [openFrame_eq, require_bind_of_false (decide_eq_false (Nat.not_le.2 hshort))]

theorem openFrame_of_bad_header (hlong : 10 ≤ f.length) (hbad : slice f 0 4 ≠ [0xFF, 0xFF, 0xFD, 0x00]) :
    openFrame policy f = .error (malformed .header) := by
  rw [openFrame_eq, require_bind_of_true (decide_eq_true hlong), require_bind_of_false (decide_eq_false hbad)]

theorem openFrame_of_bad_length (hlong : 10 ≤ f.length) (hheader : slice f 0 4 = [0xFF, 0xFF, 0xFD, 0x00])
    (hbad : ¬ (3 ≤ declared f ∧ f.length = declared f + 7)) :
    openFrame policy f = .error (malformed .length) := by
  rw [openFrame_eq, require_bind_of_true (decide_eq_true hlong), require_bind_of_true (decide_eq_true hheader),
    require_bind_of_false (decide_eq_false hbad)]

theorem openFrame_of_bad_id (hlong : 10 ≤ f.length) (hheader : slice f 0 4 = [0xFF, 0xFF, 0xFD, 0x00])
    (hlength : 3 ≤ declared f ∧ f.length = declared f + 7) (hbad : ¬ LegalPacketId (byteAt f 4)) :
    openFrame policy f = .error (malformedId (byteAt f 4)) := by
  rw [openFrame_eq, require_bind_of_true (decide_eq_true hlong), require_bind_of_true (decide_eq_true hheader),
    require_bind_of_true (decide_eq_true hlength), require_bind_of_false ((legalId_eq_false _).2 hbad)]

/-- Past the structural checks, opening a frame is its CRC check and its escape check. -/
theorem openFrame_of_sound (h : StructurallySound f) : openFrame policy f =
    (require (decide (policy = .strict → carriedCrc f = recomputedCrc f)) (malformed .crc) >>= fun _ =>
      require (decide ((unstuffedParams f).esc = false ∧ (unstuffedParams f).pEnd = false))
        (malformed .escape) >>= fun _ =>
      .ok ⟨byteAt f 4, byteAt f 7, (unstuffedParams f).out, carriedCrc f,
        decide (carriedCrc f = recomputedCrc f)⟩) := by
  rw [openFrame_eq, require_bind_of_true (decide_eq_true h.long), require_bind_of_true (decide_eq_true h.header),
    require_bind_of_true (decide_eq_true h.length), require_bind_of_true ((legalId_iff _).2 h.id)]

variable {policy}

theorem openFrame_of_bad_crc (h : StructurallySound f)
    (hbad : ¬ (policy = .strict → carriedCrc f = recomputedCrc f)) :
    openFrame policy f = .error (malformed .crc) := by
  rw [openFrame_of_sound policy h, require_bind_of_false (decide_eq_false hbad)]

theorem openFrame_of_bad_escape (h : StructurallySound f)
    (hcrc : policy = .strict → carriedCrc f = recomputedCrc f)
    (hbad : ¬ ((unstuffedParams f).esc = false ∧ (unstuffedParams f).pEnd = false)) :
    openFrame policy f = .error (malformed .escape) := by
  rw [openFrame_of_sound policy h, require_bind_of_true (decide_eq_true hcrc),
    require_bind_of_false (decide_eq_false hbad)]

end

/-- Settles O45: each clause is what `openFrame` raises at one structural check, the checks before it having passed. -/
theorem disassembleStructuralChecks : Obligations.DisassembleStructuralChecks := by
  unfold Obligations.DisassembleStructuralChecks
  intro f s malformedAs
  refine ⟨decode_disassemble_command f, fun hshort => ?short, fun hlong hbad => ?header, fun hlong hheader =>
    ⟨fun hbad => ?length, fun hmin hlength hbad => ?id⟩⟩
  case short => exact exec_disassemble_of_open_error (openFrame_of_short _ hshort)
  case header => exact exec_disassemble_of_open_error (openFrame_of_bad_header _ hlong hbad)
  case length => exact exec_disassemble_of_open_error (openFrame_of_bad_length _ hlong hheader (by omega))
  case id => exact exec_disassemble_of_open_error (openFrame_of_bad_id _ hlong hheader ⟨hmin, hlength⟩ hbad)

end Sys2Proof.Machine
end

section
/-! Disassembling a frame that opens (spec/46_packet.md R278 to R280, R284): its resolution and its field decode, the
packet record it ends in, and the CRC that record reports. -/

namespace Sys2Proof.Machine

/-- The packet record of a frame under a resolution (R270, R281). -/
def packetOf (f : Bytes) (r : Resolved) : Packet :=
  { dir := r.dir, name := r.name, id := byteAt f 4, fields := unpackFields r.layout (unstuffedParams f).out, raw := f,
    crc := carriedCrc f, crcOk := decide (carriedCrc f = recomputedCrc f) }

/-- A status frame needs a set correlation cell (R216). -/
theorem resolve_status_of_unset (p : Params) {b : Block} (hunset : b.lastValid = false) :
    resolve p b 0x55 = .error noPriorInstruction := by
  have hentry : statusEntry p b = .error noPriorInstruction := by simp [statusEntry, hunset]
  rw [resolve, if_pos (show (0x55 : Byte) = statusOp from rfl), hentry]
  rfl

theorem resolve_of_unknown {p : Params} {inst : Byte} (b : Block) (hinst : inst ≠ 0x55)
    (habsent : ∀ e ∈ p.registry.entries, e.op ≠ inst) : resolve p b inst = .error (unknownOpcode inst) := by
  rw [resolve, if_neg (show ¬ inst = statusOp from hinst), byOp_of_absent habsent]
  rfl

theorem decodeFields_of_not_fits {lay : Layout} {buf : Bytes} (hwf : wfLayout lay = .ok ())
    (h : ¬ UnpackFits lay buf.length) : decodeFields lay buf = .error (malformed .payload) := by
  cases hd : decodeFields lay buf with
  | ok res => exact absurd (decodeFields_eq_ok.1 hd).1 h
  | error x => rw [(decodeFields_eq_error hwf hd).1]

section
variable {s : State} {f : Bytes} (hopen : AcceptableFrame s.params.crcPolicy f)
include hopen

theorem exec_disassemble_of_unresolved {x : Raise} (hx : resolve s.params s.block (byteAt f 7) = .error x) :
    exec (.disassemble f) s = .next (s.afterError f x) := by
  refine exec_disassemble_of_error ?_
  rw [disassemble, openFrame_eq_ok.2 ⟨hopen, rfl⟩, except_bind_ok, hx, except_bind_error]

/-- The two ends of a frame that opens and resolves: its params fit the resolved layout or they do not. -/
theorem exec_disassemble_of_resolved {r : Resolved} (hr : resolve s.params s.block (byteAt f 7) = .ok r)
    (hwf : wfLayout r.layout = .ok ()) :
    (¬ UnpackFits r.layout (unstuffedParams f).out.length →
      exec (.disassemble f) s = .next (s.afterError f (malformed .payload))) ∧
    (UnpackFits r.layout (unstuffedParams f).out.length →
      exec (.disassemble f) s =
        .next (s.afterOk (correlate s.block r.dir (byteAt f 7)) (.packet (packetOf f r)))) := by
  constructor
  · intro hbad
    refine exec_disassemble_of_error ?_
    rw [disassemble, openFrame_eq_ok.2 ⟨hopen, rfl⟩, except_bind_ok, hr, except_bind_ok,
      decodeFields_of_not_fits hwf hbad, except_bind_error]
  · exact fun hfits => exec_disassemble_of_ok (disassemble_of_fits hopen hr hfits)

end

/-- Settles O46: past the structural checks each clause is one of `openFrame`'s last two errors, a failed resolution, or
one of the two ends of a resolved frame, whose layout is well-formed because the registry is. -/
theorem disassembleFollowsItsChecks : Obligations.DisassembleFollowsItsChecks := by
  unfold Obligations.DisassembleFollowsItsChecks
  intro f s hlong hheader hmin hlength hid raised params record
  have hsound : StructurallySound f := ⟨hlong, hheader, ⟨hmin, hlength⟩, hid⟩
  refine ⟨fun hstrict hbad => ?crc, fun hcrc => ⟨fun hbad => ?escape, fun hesc hpEnd => ?opened⟩⟩
  case crc => exact exec_disassemble_of_open_error (openFrame_of_bad_crc hsound fun h => hbad (h hstrict))
  case escape =>
    have hdirty : ¬ ((unstuffedParams f).esc = false ∧ (unstuffedParams f).pEnd = false) := by
      simpa [or_iff_not_imp_left] using hbad
    exact exec_disassemble_of_open_error (openFrame_of_bad_escape hsound hcrc hdirty)
  case opened =>
    have hopen : AcceptableFrame s.params.crcPolicy f :=
      ⟨hlong, hheader, ⟨hmin, hlength⟩, hid, hcrc, ⟨hesc, hpEnd⟩⟩
    refine ⟨fun hinst hunset => ?noPrior, fun hinst habsent => ?unknown, fun e he =>
      ⟨fun hinst hset hop => ?status, fun hop => ?instruction⟩⟩
    case noPrior =>
      refine exec_disassemble_of_unresolved hopen ?_
      rw [hinst]
      exact resolve_status_of_unset s.params hunset
    case unknown => exact exec_disassemble_of_unresolved hopen (resolve_of_unknown s.block hinst habsent)
    case status =>
      have hr : resolve s.params s.block (byteAt f 7) = .ok ⟨.status, e.inLayout, statusName e⟩ := by
        rw [hinst]
        exact resolve_status he hset hop
      exact exec_disassemble_of_resolved hopen hr (registry_layouts he).2
    case instruction =>
      have hr : resolve s.params s.block (byteAt f 7) = .ok ⟨.instruction, e.outLayout, instructionName e⟩ := by
        rw [← hop]
        exact resolve_instruction he
      exact exec_disassemble_of_resolved hopen hr (registry_layouts he).1

/-- Everything a DISASSEMBLE that delivers a packet record has done: the frame opened, and the record is the frame's
under a resolution. -/
theorem exec_disassemble_eq_packet {f : Bytes} {s t : State} {p : Packet} (h : exec (.disassemble f) s = .next t)
    (hp : t.result = some (.ok (.packet p))) :
    AcceptableFrame s.params.crcPolicy f ∧ ∃ r, p = packetOf f r := by
  rcases answer_cases h with ⟨b, v, hok, rfl⟩ | ⟨x, -, rfl⟩
  · obtain ⟨hopen, r, -, -, -, rfl⟩ := disassemble_eq_ok hok
    cases hp
    exact ⟨hopen, r, rfl⟩
  · cases hp

/-- Settles O48: the record's CRC is the carried one by its definition, and under STRICT the frame only opened because
that is the recomputed one. -/
theorem reportedCrcIsCarried : Obligations.ReportedCrcIsCarried := by
  unfold Obligations.ReportedCrcIsCarried
  intro f s t p h hp
  obtain ⟨hopen, r, rfl⟩ := exec_disassemble_eq_packet h hp
  exact ⟨rfl, rfl, decide_eq_false_iff_not, hopen.crc⟩

end Sys2Proof.Machine
end

section
/-! The system command and the illegal codes (spec/47_system.md R310, R311): what RESET leaves, and the one way a step
ends in BadCommand. -/

namespace Sys2Proof.Machine

theorem decode_reset_command : decode (.command { code := 0xF0 }) = .ok .reset := rfl

/-- RESET ends in a success whose writes are the whole reset block, whatever the block held before. -/
theorem exec_reset (s : State) : exec .reset s = .next (s.afterOk Block.reset .none) :=
  succeed_eq s _ _

/-- Settles O16: the code is assigned, and the command is a success that writes the reset block alone. -/
theorem resetCommandRestoresElements : Obligations.ResetCommandRestoresElements :=
  ⟨decode_reset_command, exec_reset⟩

/-- A code outside R92's table selects no command (R93). -/
theorem decode_command_of_unassigned {c : Command}
    (h : c.code ∉ ([0x01, 0x02, 0x10, 0x11, 0x20, 0x21, 0x22, 0x30, 0x31, 0x40, 0x41, 0xF0] : List Byte)) :
    decode (.command c) = .error (.unassignedCode c.code) := by
  simp only [List.mem_cons, List.not_mem_nil, or_false, not_or] at h
  simp only [decode, decodeCommand, h, if_false]

theorem step_of_unassigned {s : State} {issue : Issue} {rest : List Issue} {code : Byte}
    (hissue : s.commands = issue :: rest) (hcode : decode issue = .error (.unassignedCode code)) :
    step s = badCommand code (s.accept rest) := by
  simp only [step, hissue, hcode]

/-- BadCommand carries the code and no raw bytes (R311, R328). -/
theorem badCommand_eq (code : Byte) (s : State) :
    badCommand code s = .next (s.afterError [] ⟨.badCommand, 0, .byte code⟩) :=
  raiseError_eq s [] _

/-- Settles O6: an unassigned code decodes to no instruction, so the step that accepts it raises BadCommand; the window
operand 3 is the code of no window in either stuffing command. -/
theorem illegalCodesAndOperandsRaise : Obligations.IllegalCodesAndOperandsRaise := by
  unfold Obligations.IllegalCodesAndOperandsRaise
  refine ⟨fun s c rest hissue hcode => ?unassigned, fun s data => ?stuff, fun s p0 data => ?unstuff⟩
  case unassigned =>
    calc step s
        = badCommand c.code (s.accept rest) := step_of_unassigned hissue (decode_command_of_unassigned hcode)
      _ = .next ((s.accept rest).afterError [] ⟨.badCommand, 0, .byte c.code⟩) := badCommand_eq c.code _
  case stuff => exact exec_stuff_three data s
  case unstuff => exact exec_unstuff_three p0 data s

end Sys2Proof.Machine
end

section
/-! Errors and the block that goes on (spec/60_exceptions.md R328, R331, R345): every instruction comes to one end,
`State.answer` with the raw bytes R328 gives it, so what holds of that end holds of every instruction. -/

namespace Sys2Proof.Machine

/-- A command with no error path ends as a command that answers: its raw bytes are reported by no result. -/
theorem succeed_eq_answer (s : State) (raw : Bytes) (b : Block) (v : Answer) :
    s.succeed b v = s.answer raw (.ok (b, v)) := rfl

/-- The one shape of an instruction's meaning (R18, R328). UNPACK and DISASSEMBLE report their byte operand, a wire frame
is the operand of the DISASSEMBLE it stands for (R282), and the other commands report nothing. -/
theorem exec_eq_answer (i : Instr) (s : State) : ∃ r, exec i s = s.answer (rawOperand i) r := by
  cases i with
  | crc16 | crcFeed | detClear | reset => exact ⟨_, succeed_eq_answer s [] _ _⟩
  | stuff | unstuff | pack | getField | detPush | assemble => exact ⟨_, rfl⟩
  | unpack | disassemble => exact ⟨_, rfl⟩
  | status | ping | read | write | regWrite | action | factoryReset | reboot | clear | syncRead | syncWrite | bulkRead
  | bulkWrite => exact ⟨_, rfl⟩

theorem exec_running (i : Instr) (s : State) : Running (exec i s) := by
  obtain ⟨r, hexec⟩ := exec_eq_answer i s
  rw [hexec]
  exact answer_running s (rawOperand i) r

theorem badCommand_running (code : Byte) (s : State) : Running (badCommand code s) := ⟨_, badCommand_eq code s⟩

/-- An end that reports an error is the error entry of R331 for what the error says of itself. -/
theorem eq_afterError_of_answer {s t : State} {raw : Bytes} {r : Except Raise (Block × Answer)} {e : ErrorResult}
    (h : s.answer raw r = .next t) (hres : t.result = some (.err e)) :
    t = s.afterError raw ⟨e.kind, e.sub, e.info⟩ ∧ e.raw = raw := by
  rcases answer_cases h with ⟨b, v, -, rfl⟩ | ⟨x, -, rfl⟩
  · cases hres
  · obtain rfl : ⟨x.kind, x.sub, x.info, raw⟩ = e := Result.err.inj (Option.some.inj hres)
    exact ⟨rfl, rfl⟩

/-- Settles O7: the block waits, runs the instruction it accepted, or raises BadCommand, and each answers a next state. -/
theorem blockNeverHalts : Obligations.BlockNeverHalts := by
  unfold Obligations.BlockNeverHalts
  intro s
  rcases step_cases s with ⟨-, hwait⟩ | ⟨_, rest, i, -, -, hrun⟩ | ⟨_, rest, code, -, -, hbad⟩
  · exact ⟨s, hwait⟩
  · rw [hrun]
    exact exec_running i (s.accept rest)
  · rw [hbad]
    exact badCommand_running code (s.accept rest)

/-- Settles O8: an instruction's end is an answer with its raw bytes, whose error is the error entry of R331; BadCommand
is that entry with no raw bytes. -/
theorem errorsChangeOnlyStatus : Obligations.ErrorsChangeOnlyStatus := by
  unfold Obligations.ErrorsChangeOnlyStatus
  refine ⟨?instruction, badCommand_eq⟩
  case instruction =>
    intro i s t e h hres
    obtain ⟨r, hexec⟩ := exec_eq_answer i s
    exact eq_afterError_of_answer (hexec.symm.trans h) hres

end Sys2Proof.Machine
end

section
/-! Construction and the reset events (spec/44_registry.md R211, spec/70_reset_and_hazards.md R361, R363): the registry
check part by part, the one state a construction can answer, and the one block that every reset leaves. -/

namespace Sys2Proof.Machine

/-- The four parts of R211, each by what its check decides. -/
theorem registryWf_iff {entries : List Entry} : registryWf entries = true ↔
    (entries.map Entry.op).Nodup ∧ (entries.map Entry.name).Nodup ∧ (∀ e ∈ entries, e.op ≠ 0x55) ∧
    ∀ e ∈ entries, wfLayout e.outLayout = .ok () ∧ wfLayout e.inLayout = .ok () := by
  simp only [registryWf, statusOp, Bool.and_eq_true, List.all_eq_true, bne_iff_ne, distinctOps_iff, distinctNames_iff,
    layoutOk_iff, and_assoc]

section
variable {entries : List Entry} (policy : CrcPolicy)

theorem construct_of_wf (hwf : registryWf entries = true) :
    State.construct entries policy = some { State.reset with params := ⟨⟨entries, hwf⟩, policy⟩ } := dif_pos hwf

theorem construct_of_illFormed (hill : registryWf entries = false) : State.construct entries policy = none :=
  dif_neg (Bool.eq_false_iff.1 hill)

end

/-- A construction that answers a state had a well-formed registry, and that state is the reset state but for its
parameters. -/
theorem construct_eq_some {entries : List Entry} {policy : CrcPolicy} {s : State}
    (h : State.construct entries policy = some s) :
    ∃ hwf : registryWf entries = true, s = { State.reset with params := ⟨⟨entries, hwf⟩, policy⟩ } := by
  obtain hwf | hill := Bool.eq_false_or_eq_true (registryWf entries)
  · exact ⟨hwf, Option.some.inj (h.symm.trans (construct_of_wf policy hwf))⟩
  · cases h.symm.trans (construct_of_illFormed policy hill)

theorem construct_block {entries : List Entry} {policy : CrcPolicy} {s : State}
    (h : State.construct entries policy = some s) : s.block = Block.reset := by
  obtain ⟨_, rfl⟩ := construct_eq_some h
  rfl

/-- RESET's success writes to `status` what the reset block already holds there. -/
theorem exec_reset_block {s t : State} (h : exec .reset s = .next t) : t.block = Block.reset := by
  obtain rfl : s.afterOk Block.reset .none = t := Host.Outcome.next.inj ((exec_reset s).symm.trans h)
  rfl

/-- The reset values of R46, element by element. -/
theorem block_reset_elements : Block.reset.crcAcc = 0x0000 ∧ Block.reset.detState = .idle ∧ Block.reset.detBuf = [] ∧
    Block.reset.lastOp = 0x00 ∧ Block.reset.lastValid = false ∧ Block.reset.status = ⟨0x00, 0x00⟩ :=
  ⟨rfl, rfl, rfl, rfl, rfl, rfl⟩

/-- Settles O42: the check decides R211's four parts, and construction answers by it. -/
theorem constructionRequiresWellFormedRegistry : Obligations.ConstructionRequiresWellFormedRegistry := by
  unfold Obligations.ConstructionRequiresWellFormedRegistry
  refine ⟨fun _ => registryWf_iff, ?illFormed, ?wellFormed⟩
  case illFormed => exact fun _ policy hill => construct_of_illFormed policy hill
  case wellFormed => exact fun _ policy hwf => ⟨_, construct_of_wf policy hwf, rfl, rfl, rfl, rfl, rfl⟩

/-- Settles O17: power-on, every construction and RESET leave the same block, whose elements hold R46's values. -/
theorem powerOnElementValues : Obligations.PowerOnElementValues := by
  unfold Obligations.PowerOnElementValues
  intro inReset
  refine ⟨block_reset_elements, ?constructed, ?afterReset⟩
  case constructed =>
    intro _ _ s h
    rw [construct_block h]
    exact block_reset_elements
  case afterReset =>
    intro s t h
    rw [exec_reset_block h]
    exact block_reset_elements

end Sys2Proof.Machine
end

section
/-! The laws of the stuffing codec (spec/42_stuffing.md R142, R143, R145 to R147): each direction undoes the other, both
chain over consecutive spans, and a stuffed span escapes every `FF FF FD` it holds. -/

namespace Sys2Proof.Machine

/-- Settles O27, by induction on the span: a match is undone with its escape, any other byte by itself. -/
theorem unstuffInvertsStuff : Obligations.UnstuffInvertsStuff := by
  unfold Obligations.UnstuffInvertsStuff
  intro w x
  induction x generalizing w with
  | nil => rfl
  | cons b xs ih =>
    cases hmatch : (winStep w b).2 with
    | true => simp only [stuff_cons_matched xs hmatch, unstuff_cons_matched _ hmatch, unstuff_escape, ih]
    | false => simp only [stuff_cons_unmatched xs hmatch, unstuff_cons_unmatched _ hmatch, ih]

/-- Where an escape is due, a span without a missing or due escape starts with it. -/
theorem starts_with_escape_of_clean {w : Window} {y : Bytes} (hesc : (unstuff w true y).esc = false)
    (hend : (unstuff w true y).pEnd = false) : ∃ ys, y = escapeByte :: ys := by
  cases y with
  | nil => simp at hend
  | cons b ys =>
    by_cases hb : b = escapeByte
    · exact ⟨ys, by rw [hb]⟩
    · simp [unstuff, hb] at hesc

/-- Settles O28, by induction on the length of the span: after a match the due escape is there, so the span goes on two
bytes later. -/
theorem cleanSpanIsStuffed : Obligations.CleanSpanIsStuffed := by
  unfold Obligations.CleanSpanIsStuffed
  intro w y
  induction hn : y.length using Nat.strong_induction_on generalizing w y with
  | _ n ih =>
    subst hn
    intro hesc hend
    cases y with
    | nil => rfl
    | cons b ys =>
      cases hmatch : (winStep w b).2 with
      | false =>
        rw [unstuff_cons_unmatched ys hmatch] at hesc hend ⊢
        rw [stuff_cons_unmatched _ hmatch, ih ys.length (by simp) _ _ rfl hesc hend]
      | true =>
        rw [unstuff_cons_matched ys hmatch] at hesc hend ⊢
        obtain ⟨zs, rfl⟩ := starts_with_escape_of_clean hesc hend
        rw [unstuff_escape] at hesc hend ⊢
        rw [stuff_cons_matched _ hmatch, ih zs.length (by simp) _ _ rfl hesc hend]

theorem stuff_append (w : Window) (a b : Bytes) :
    stuff w (a ++ b) = ((stuff w a).1 ++ (stuff (stuff w a).2 b).1, (stuff (stuff w a).2 b).2) := by
  induction a generalizing w with
  | nil => rfl
  | cons x xs ih =>
    cases hmatch : (winStep w x).2 with
    | true => simp [stuff_cons_matched _ hmatch, ih]
    | false => simp [stuff_cons_unmatched _ hmatch, ih]

theorem unstuff_append (w : Window) (p : Bool) (a b : Bytes) :
    unstuff w p (a ++ b) =
      ⟨(unstuff w p a).out ++ (unstuff (unstuff w p a).wEnd (unstuff w p a).pEnd b).out,
        (unstuff (unstuff w p a).wEnd (unstuff w p a).pEnd b).wEnd,
        (unstuff (unstuff w p a).wEnd (unstuff w p a).pEnd b).pEnd,
        (unstuff w p a).esc || (unstuff (unstuff w p a).wEnd (unstuff w p a).pEnd b).esc⟩ := by
  induction a generalizing w p with
  | nil => simp
  | cons y ys ih =>
    rw [List.cons_append, unstuff, unstuff]
    by_cases hdue : (p && y == escapeByte) = true
    · simp only [hdue, if_true, ih]
    · cases hmatch : (winStep w y).2 <;> simp [hdue, ih, Bool.or_assoc]

/-- Settles O29: both transforms are folds over the span. -/
theorem spansChain : Obligations.SpansChain := ⟨stuff_append, unstuff_append⟩

/-- Every `FF FF FD` of a span is followed by the escape byte (R146 (a)). -/
def Escaped (y : Bytes) : Prop := ∀ k, slice y k (k + 3) = [0xFF, 0xFF, 0xFD] → y[k + 3]? = some 0xFD

theorem escaped_cons {b : Byte} {y : Bytes} (hhead : slice (b :: y) 0 3 = [0xFF, 0xFF, 0xFD] → y[2]? = some 0xFD)
    (hy : Escaped y) : Escaped (b :: y) := by
  intro k hk
  cases k with
  | zero => exact hhead hk
  | succ k => exact hy k (by simpa [slice] using hk)

/-- The bytes of the pattern a window state has seen. -/
def Window.seen : Window → Bytes
  | .zero => []
  | .one => [0xFF]
  | .two => [0xFF, 0xFF]

theorem escaped_seen (w : Window) : Escaped w.seen := by
  intro k hk
  have hseen : w.seen.length ≤ 2 := by cases w <;> decide
  have hlen := congrArg List.length hk
  simp [slice] at hlen
  omega

/-- A byte that neither continues nor restarts the pattern leaves nothing to escape before it. -/
theorem escaped_seen_append_of_ne {w : Window} {b : Byte} {y : Bytes} (hff : b ≠ 0xFF)
    (hfd : w = .two → b ≠ 0xFD) (hy : Escaped y) : Escaped (w.seen ++ b :: y) := by
  have hb : Escaped (b :: y) := escaped_cons (fun h => absurd (List.cons.inj h).1 hff) hy
  have hone : Escaped (0xFF :: b :: y) :=
    escaped_cons (fun h => absurd (List.cons.inj (List.cons.inj h).2).1 hff) hb
  cases w with
  | zero => exact hb
  | one => exact hone
  | two =>
    exact escaped_cons (fun h => absurd (List.cons.inj (List.cons.inj (List.cons.inj h).2).2).1 (hfd rfl)) hone

theorem winStep_of_ne_ff {w : Window} {b : Byte} (hff : b ≠ 0xFF) : (winStep w b).1 = .zero := by
  cases w with
  | zero | one => simp only [winStep, if_neg hff]
  | two =>
    simp only [winStep, if_neg hff]
    split <;> rfl

/-- Behind the bytes its window has seen, a stuffed span is escaped. -/
theorem escaped_seen_stuff (w : Window) (x : Bytes) : Escaped (w.seen ++ (stuff w x).1) := by
  induction x generalizing w with
  | nil => simpa using escaped_seen w
  | cons b xs ih =>
    cases hmatch : (winStep w b).2 with
    | true =>
      obtain ⟨rfl, rfl, -⟩ := winStep_matched hmatch
      have hescape : Escaped (0xFD :: 0xFD :: (stuff .zero xs).1) :=
        escaped_seen_append_of_ne (w := .zero) (by decide) nofun
          (escaped_seen_append_of_ne (w := .zero) (by decide) nofun (ih .zero))
      rw [stuff_cons_matched xs hmatch]
      refine escaped_cons (fun _ => rfl) (escaped_cons ?_ hescape)
      simp [slice, escapeByte]
    | false =>
      rw [stuff_cons_unmatched xs hmatch]
      have hrest := ih (winStep w b).1
      by_cases hff : b = 0xFF
      · subst hff
        cases w with
        | zero | one => exact hrest
        | two => exact escaped_cons (by simp [slice]) hrest
      · rw [winStep_of_ne_ff hff] at hrest ⊢
        refine escaped_seen_append_of_ne hff ?_ hrest
        rintro rfl rfl
        cases hmatch

/-- Settles O30: from state 0 the span itself is escaped, so an `FD` stands where the marker has its `00`. -/
theorem stuffedSpanHidesMarker : Obligations.StuffedSpanHidesMarker := by
  unfold Obligations.StuffedSpanHidesMarker
  intro x k
  have hescaped : Escaped (stuff .zero x).1 := escaped_seen_stuff .zero x
  refine ⟨hescaped k, fun hmarker => ?_⟩
  have hpattern : slice (stuff .zero x).1 k (k + 3) = [0xFF, 0xFF, 0xFD] := by
    have := congrArg (List.take 3) hmarker
    simpa [slice, List.take_take] using this
  have hlast : (stuff .zero x).1[k + 3]? = some 0x00 := by
    have := congrArg (·[3]?) hmarker
    simpa [slice] using this
  cases hlast.symm.trans (hescaped k hpattern)

end Sys2Proof.Machine
end

section
/-! Frames that open (spec/30_encoding.md R80 to R84, spec/46_packet.md R275 to R277): a built frame passes every check
and gives back its opcode, id and params, and a frame that passes under STRICT is the one built from what it gives. -/

namespace Sys2Proof.Machine

theorem frameOf_inst (op id : Byte) (sp : Bytes) : byteAt (frameOf op id sp) 7 = op := rfl

theorem frameOf_id (op id : Byte) (sp : Bytes) : byteAt (frameOf op id sp) 4 = id := rfl

/-- The PARAM span is unstuffed from the window state INST leaves, in which it was stuffed (R144). -/
theorem unstuffedParams_frameOf (op id : Byte) (params : Bytes) :
    unstuffedParams (frameOf op id (stuffedParams op params)) =
      ⟨params, (stuff (primedWindow op) params).2, false, false⟩ := by
  rw [unstuffedParams, slice_frameOf_params, frameOf_inst]
  exact unstuffInvertsStuff (primedWindow op) params

/-- A frame whose id is legal and whose declared length fits passes every check, under either policy. -/
theorem acceptableFrame_frameOf (policy : CrcPolicy) {op id : Byte} {params : Bytes} (hid : LegalPacketId id)
    (hfits : (stuffedParams op params).length + 3 ≤ 0xFFFF) :
    AcceptableFrame policy (frameOf op id (stuffedParams op params)) where
  long := by simp
  header := rfl
  length := by simp [declared_frameOf hfits]
  id := hid
  crc := fun _ => carriedCrc_frameOf op id _
  escape := by simp [unstuffedParams_frameOf]

theorem take_succ_eq_append_byteAt {f : Bytes} {k : Nat} (h : k < f.length) :
    f.take (k + 1) = f.take k ++ [byteAt f k] := by
  rw [List.take_add_one, List.getElem?_eq_getElem h, byteAt, List.getD_eq_getElem _ _ h, Option.toList_some]

theorem take_add_two_eq_append_byteAt {f : Bytes} {k : Nat} (h : k + 1 < f.length) :
    f.take (k + 2) = f.take k ++ [byteAt f k, byteAt f (k + 1)] := by
  rw [take_succ_eq_append_byteAt h, take_succ_eq_append_byteAt (Nat.lt_of_succ_lt h), List.append_assoc]
  rfl

theorem leBytes_le16 (lo hi : Byte) : leBytes 2 (le16 lo hi) = [lo, hi] := by
  rw [← leNat_pair]
  exact leBytes_leNat [lo, hi]

/-- The bytes before the CRC field of a frame with a header and its declared length, by their offsets (R80). -/
theorem take_eq_coveredBytes {f : Bytes} (hlong : 10 ≤ f.length) (hheader : slice f 0 4 = [0xFF, 0xFF, 0xFD, 0x00])
    (hlength : f.length = declared f + 7) :
    f.take (f.length - 2) = coveredBytes (byteAt f 7) (byteAt f 4) (slice f 8 (f.length - 2)) := by
  have hspan : (slice f 8 (f.length - 2)).length + 3 = le16 (byteAt f 5) (byteAt f 6) := by
    simp only [declared] at hlength
    simp [slice]
    omega
  have hdeclared : leBytes 2 ((slice f 8 (f.length - 2)).length + 3) = [byteAt f 5, byteAt f 6] := by
    rw [hspan, leBytes_le16]
  calc f.take (f.length - 2)
      = f.take 8 ++ slice f 8 (f.length - 2) := by
        rw [slice, ← List.take_add, show 8 + (f.length - 2 - 8) = f.length - 2 by omega]
    _ = slice f 0 4 ++ [byteAt f 4] ++ [byteAt f 5, byteAt f 6] ++ [byteAt f 7] ++ slice f 8 (f.length - 2) := by
        rw [take_succ_eq_append_byteAt (show 7 < f.length by omega),
          take_add_two_eq_append_byteAt (show 6 < f.length by omega),
          take_succ_eq_append_byteAt (show 4 < f.length by omega), slice_zero]
    _ = coveredBytes (byteAt f 7) (byteAt f 4) (slice f 8 (f.length - 2)) := by
        rw [hheader, ← hdeclared]
        rfl

/-- A frame that passes the checks of STRICT is the one of its opcode, its id and its PARAM span. -/
theorem eq_frameOf_of_acceptable {f : Bytes} (h : AcceptableFrame .strict f) :
    f = frameOf (byteAt f 7) (byteAt f 4) (slice f 8 (f.length - 2)) := by
  have hlong := h.long
  have hcovered := take_eq_coveredBytes hlong h.header h.length.2
  have hcrc : [byteAt f (f.length - 2), byteAt f (f.length - 2 + 1)] = halfBytes (recomputedCrc f) := by
    rw [← h.crc rfl, ← halfBytes_halfOf, show f.length - 2 + 1 = f.length - 1 by omega]
    rfl
  calc f = f.take (f.length - 2 + 2) := (List.take_of_length_le (by omega)).symm
    _ = f.take (f.length - 2) ++ halfBytes (crc16 0 (f.take (f.length - 2))) := by
        rw [take_add_two_eq_append_byteAt (by omega), hcrc, recomputedCrc]
    _ = frameOf (byteAt f 7) (byteAt f 4) (slice f 8 (f.length - 2)) := by rw [hcovered, frameOf_eq_append_crc]

/-- Its PARAM span is the stuffing of its params, because no escape is missing or due in it (R277). -/
theorem stuffedParams_of_acceptable {policy : CrcPolicy} {f : Bytes} (h : AcceptableFrame policy f) :
    stuffedParams (byteAt f 7) (unstuffedParams f).out = slice f 8 (f.length - 2) :=
  congrArg Prod.fst (cleanSpanIsStuffed _ _ h.escape.1 h.escape.2)

/-- A frame that passes the checks of STRICT is built from what it gives, by a build its lengths allow. -/
theorem buildFrame_of_acceptable {f : Bytes} (h : AcceptableFrame .strict f) :
    buildFrame (byteAt f 7) (byteAt f 4) (unstuffedParams f).out = f ∧
      frameWellFormed (byteAt f 7) (byteAt f 4) (unstuffedParams f).out = true := by
  have hfits : declaredLength (byteAt f 7) (unstuffedParams f).out ≤ 0xFFFF := by
    have hlength := h.length.2
    have hdeclared := declared_le f
    rw [declaredLength_eq, stuffedParams_of_acceptable h]
    simp [slice]
    omega
  constructor
  · rw [buildFrame_eq, stuffedParams_of_acceptable h, ← eq_frameOf_of_acceptable h]
  · simp [frameWellFormed, (legalId_iff _).2 h.id, hfits]

end Sys2Proof.Machine
end

section
/-! Decoding and encoding (spec/30_encoding.md R80 to R85, R90 to R92, R99): a frame decodes by its opcode, its id and
its params alone, and those three stand for at most one instruction of the table. -/

namespace Sys2Proof.Machine

/-- A well-formed frame decodes as its opcode, id and params do. -/
theorem decodeFrame_buildFrame {op id : Byte} {params : Bytes} (h : frameWellFormed op id params = true) :
    decodeFrame (buildFrame op id params) = decodeParams op id params := by
  obtain ⟨hid, hfits⟩ : LegalPacketId id ∧ (stuffedParams op params).length + 3 ≤ 0xFFFF := by
    simpa [frameWellFormed, legalId_iff, declaredLength_eq] using h
  rw [decodeFrame, buildFrame_eq, openFrame_eq_ok.2 ⟨acceptableFrame_frameOf .strict hid hfits, rfl⟩]
  simp only [frameOf_inst, frameOf_id, unstuffedParams_frameOf]

theorem decode_frame_of_ok {f : Bytes} {i : Instr} (h : decodeFrame f = .ok i) : decode (.frame f) = .ok i := by
  simp only [decode, h]

theorem decode_buildFrame {op id : Byte} {params : Bytes} {i : Instr} (h : frameWellFormed op id params = true)
    (hparams : decodeParams op id params = .ok i) : decode (.frame (buildFrame op id params)) = .ok i :=
  decode_frame_of_ok ((decodeFrame_buildFrame h).trans hparams)

section
variable (id : Byte) (a l : Half) (rest : Bytes)

theorem decodeParams_read : decodeParams 0x02 id (readParams a l) = .ok (.read id a l) := by
  simp [decodeParams, readParams, halfBytes_eq]

theorem decodeParams_write : decodeParams 0x03 id (writeParams a rest) = .ok (.write id a rest) := by
  simp [decodeParams, writeParams, halfBytes_eq, addressFrame]

theorem decodeParams_regWrite : decodeParams 0x04 id (writeParams a rest) = .ok (.regWrite id a rest) := by
  simp [decodeParams, writeParams, halfBytes_eq, addressFrame]

theorem decodeParams_clear (option : Byte) {key : Bytes} (hkey : key.length = 4) :
    decodeParams 0x10 id (clearParams option key) = .ok (.clear id option key) := by
  obtain ⟨k0, k1, k2, k3, rfl⟩ := List.length_eq_four.1 hkey
  rfl

theorem decodeParams_syncRead : decodeParams 0x82 id (syncParams a l rest) = .ok (.syncRead id a l rest) := by
  simp [decodeParams, syncParams, halfBytes_eq, addressLengthFrame]

theorem decodeParams_syncWrite : decodeParams 0x83 id (syncParams a l rest) = .ok (.syncWrite id a l rest) := by
  simp [decodeParams, syncParams, halfBytes_eq, addressLengthFrame]

end

/-- Settles O3: a command's record carries its operands as they are, and a wire instruction's frame gives back the
params its fields were laid out in. -/
theorem decodeInvertsEncode : Obligations.DecodeInvertsEncode := by
  unfold Obligations.DecodeInvertsEncode
  intro i h
  cases i with
  | crc16 | crcFeed | stuff | unstuff | pack | unpack | getField | detPush | detClear | assemble | disassemble
  | reset => rfl
  | status | ping | action | factoryReset | reboot | bulkRead | bulkWrite => exact decode_buildFrame h rfl
  | read id a l => exact decode_buildFrame h (decodeParams_read id a l)
  | write id a data => exact decode_buildFrame h (decodeParams_write id a data)
  | regWrite id a data => exact decode_buildFrame h (decodeParams_regWrite id a data)
  | clear id option key =>
    obtain ⟨hframe, hkey⟩ := Bool.and_eq_true_iff.1 h
    exact decode_buildFrame hframe (decodeParams_clear id option (of_decide_eq_true hkey))
  | syncRead id a l ids => exact decode_buildFrame h (decodeParams_syncRead id a l ids)
  | syncWrite id a l data => exact decode_buildFrame h (decodeParams_syncWrite id a l data)

/-- What an opcode, an id and params stand for encodes to their frame, and is well-formed when that frame is. -/
def EncodesTo (op id : Byte) (params : Bytes) (i : Instr) : Prop :=
  encode i = .frame (buildFrame op id params) ∧ (frameWellFormed op id params = true → i.wellFormed = true)

section
variable {op id : Byte} {params : Bytes} {i : Instr}

theorem bareFrame_eq_ok {j : Instr} (h : bareFrame op j params = .ok i) : params = [] ∧ i = j := by
  cases params with
  | nil => exact ⟨rfl, (Except.ok.inj h).symm⟩
  | cons => cases h

theorem addressFrame_eq_ok {mk : Half → Bytes → Instr} (h : addressFrame op mk params = .ok i) :
    ∃ a rest, params = writeParams a rest ∧ i = mk a rest := by
  match params, h with
  | a0 :: a1 :: rest, h => exact ⟨halfOf a0 a1, rest, by simp [writeParams], (Except.ok.inj h).symm⟩

theorem addressLengthFrame_eq_ok {mk : Half → Half → Bytes → Instr} (h : addressLengthFrame op mk params = .ok i) :
    ∃ a l rest, params = syncParams a l rest ∧ i = mk a l rest := by
  match params, h with
  | a0 :: a1 :: l0 :: l1 :: rest, h =>
    exact ⟨halfOf a0 a1, halfOf l0 l1, rest, by simp [syncParams], (Except.ok.inj h).symm⟩

/-- Row by row of the table's wire opcodes, in the decoder's order. -/
theorem encodesTo_of_decodeParams (h : decodeParams op id params = .ok i) : EncodesTo op id params i := by
  unfold decodeParams at h
  rcases ite_eq_iff.1 h with ⟨rfl, h⟩ | ⟨-, h⟩
  · -- status
    cases h
    exact ⟨rfl, fun hwf => hwf⟩
  rcases ite_eq_iff.1 h with ⟨rfl, h⟩ | ⟨-, h⟩
  · -- ping
    obtain ⟨rfl, rfl⟩ := bareFrame_eq_ok h
    exact ⟨rfl, fun hwf => hwf⟩
  rcases ite_eq_iff.1 h with ⟨rfl, h⟩ | ⟨-, h⟩
  · -- read
    match params, h with
    | [a0, a1, l0, l1], h =>
      cases h
      have hparams : readParams (halfOf a0 a1) (halfOf l0 l1) = [a0, a1, l0, l1] := by simp [readParams]
      rw [← hparams]
      exact ⟨rfl, fun hwf => hwf⟩
  rcases ite_eq_iff.1 h with ⟨rfl, h⟩ | ⟨-, h⟩
  · -- write
    obtain ⟨a, rest, rfl, rfl⟩ := addressFrame_eq_ok h
    exact ⟨rfl, fun hwf => hwf⟩
  rcases ite_eq_iff.1 h with ⟨rfl, h⟩ | ⟨-, h⟩
  · -- reg_write
    obtain ⟨a, rest, rfl, rfl⟩ := addressFrame_eq_ok h
    exact ⟨rfl, fun hwf => hwf⟩
  rcases ite_eq_iff.1 h with ⟨rfl, h⟩ | ⟨-, h⟩
  · -- action
    obtain ⟨rfl, rfl⟩ := bareFrame_eq_ok h
    exact ⟨rfl, fun hwf => hwf⟩
  rcases ite_eq_iff.1 h with ⟨rfl, h⟩ | ⟨-, h⟩
  · -- factory_reset
    match params, h with
    | [option], h => cases h; exact ⟨rfl, fun hwf => hwf⟩
  rcases ite_eq_iff.1 h with ⟨rfl, h⟩ | ⟨-, h⟩
  · -- reboot
    obtain ⟨rfl, rfl⟩ := bareFrame_eq_ok h
    exact ⟨rfl, fun hwf => hwf⟩
  rcases ite_eq_iff.1 h with ⟨rfl, h⟩ | ⟨-, h⟩
  · -- clear
    match params, h with
    | [option, k0, k1, k2, k3], h => cases h; exact ⟨rfl, fun hwf => Bool.and_eq_true_iff.2 ⟨hwf, rfl⟩⟩
  rcases ite_eq_iff.1 h with ⟨rfl, h⟩ | ⟨-, h⟩
  · -- sync_read
    obtain ⟨a, l, rest, rfl, rfl⟩ := addressLengthFrame_eq_ok h
    exact ⟨rfl, fun hwf => hwf⟩
  rcases ite_eq_iff.1 h with ⟨rfl, h⟩ | ⟨-, h⟩
  · -- sync_write
    obtain ⟨a, l, rest, rfl, rfl⟩ := addressLengthFrame_eq_ok h
    exact ⟨rfl, fun hwf => hwf⟩
  rcases ite_eq_iff.1 h with ⟨rfl, h⟩ | ⟨-, h⟩
  · -- bulk_read
    cases h
    exact ⟨rfl, fun hwf => hwf⟩
  rcases ite_eq_iff.1 h with ⟨rfl, h⟩ | ⟨-, h⟩
  · -- bulk_write
    cases h
    exact ⟨rfl, fun hwf => hwf⟩
  · cases h

end

/-- Settles O4: a frame that decodes has passed the checks of STRICT, so it is built from its opcode, id and params, and
the instruction these stand for encodes to that build. -/
theorem encodeInvertsDecodeFrame : Obligations.EncodeInvertsDecodeFrame := by
  unfold Obligations.EncodeInvertsDecodeFrame
  intro f i h
  unfold decodeFrame at h
  split at h
  · cases h
  · rename_i o hopen
    obtain ⟨hacceptable, rfl⟩ := openFrame_eq_ok.1 hopen
    obtain ⟨hbuild, hwf⟩ := buildFrame_of_acceptable hacceptable
    obtain ⟨hencode, hinstr⟩ := encodesTo_of_decodeParams h
    exact ⟨hencode.trans (congrArg Issue.frame hbuild), hinstr hwf⟩

end Sys2Proof.Machine
end

section
/-! Issues (spec/30_encoding.md R88, R92, R99, spec/46_packet.md R282): what a step does with the issue it accepts, and
the two ways a frame can be issued. -/

namespace Sys2Proof.Machine

theorem step_of_decoded {s : State} {issue : Issue} {rest : List Issue} {i : Instr}
    (hissue : s.commands = issue :: rest) (hdecode : decode issue = .ok i) : step s = exec i (s.accept rest) := by
  simp only [step, hissue, hdecode]

theorem step_of_none_issued {s : State} (h : s.commands = []) : step s = .next s := by
  simp only [step, h]

/-- Settles O1: both clauses are branches of `step`. -/
theorem stepRunsDecodedInstruction : Obligations.StepRunsDecodedInstruction := by
  unfold Obligations.StepRunsDecodedInstruction
  exact fun s => ⟨fun _ _ _ hissue hdecode => step_of_decoded hissue hdecode, step_of_none_issued⟩

/-- Settles O2: the commands decode by their codes, and each frame is evaluated, its CRC among it. -/
theorem decodedWordsMatchTable : Obligations.DecodedWordsMatchTable := by
  unfold Obligations.DecodedWordsMatchTable
  decide

/-- A wire instruction's meaning is that of DISASSEMBLE of its frame, by its definition. -/
theorem exec_eq_disassemble {i : Instr} {f : Bytes} (h : encode i = .frame f) (s : State) :
    exec i s = exec (.disassemble f) s := by
  cases i with
  | crc16 | crcFeed | stuff | unstuff | pack | unpack | getField | detPush | detClear | assemble | disassemble
  | reset => cases h
  | status | ping | read | write | regWrite | action | factoryReset | reboot | clear | syncRead | syncWrite | bulkRead
  | bulkWrite =>
    cases h
    rfl

/-- A frame is issued as its wire instruction, or as the operand of DISASSEMBLE when it is none. -/
theorem decode_frame_cases (f : Bytes) :
    (∃ i, decode (.frame f) = .ok i ∧ encode i = .frame f) ∨ decode (.frame f) = .ok (.disassemble f) := by
  cases h : decodeFrame f with
  | ok i => exact .inl ⟨i, decode_frame_of_ok h, (encodeInvertsDecodeFrame f i h).1⟩
  | error r => exact .inr (by simp only [decode, h])

/-- Settles O5: a frame that decodes to a wire instruction is that instruction's encoding, so its step is DISASSEMBLE's;
any other frame decodes to DISASSEMBLE itself. -/
theorem frameIssueIsDisassembleCommand : Obligations.FrameIssueIsDisassembleCommand := by
  unfold Obligations.FrameIssueIsDisassembleCommand
  refine ⟨fun i f s h => exec_eq_disassemble h s, fun s f rest => ?issues⟩
  case issues =>
    have hframe : step { s with commands := .frame f :: rest } = exec (.disassemble f) (s.accept rest) := by
      rcases decode_frame_cases f with ⟨i, hdecode, hencode⟩ | hdecode
      · exact (step_of_decoded rfl hdecode).trans (exec_eq_disassemble hencode _)
      · exact step_of_decoded rfl hdecode
    have hcommand : step { s with commands := .command { code := 0x41, frame := f } :: rest } =
        exec (.disassemble f) (s.accept rest) := step_of_decoded rfl (decode_disassemble_command f)
    exact hframe.trans hcommand.symm

end Sys2Proof.Machine
end

section
/-! The integer codec (spec/43_field_codec.md R174 to R176): both directions go through one unsigned number below
`256 ^ w`, which the bytes of a field are and which a legal value is taken to by two's complement. -/

namespace Sys2Proof.Machine

/-- The unsigned number of `8 * w` bits that stands for a value (R175). -/
def twosComplement (v : Int) (w : Nat) : Nat := if 0 ≤ v then v.toNat else (v + (2 ^ (8 * w) : Nat)).toNat

/-- The value an unsigned number of `8 * w` bits stands for (R176). -/
def fromUnsigned (w : Nat) (signed : Bool) (u : Nat) : Int := if signed then signExtend (8 * w) u else u

theorem encodeInt_eq (v : Int) (w : Nat) : encodeInt v w = leBytes w (twosComplement v w) := rfl

theorem decodeInt_eq (b : Bytes) (signed : Bool) : decodeInt b signed = fromUnsigned b.length signed (leNat b) := rfl

/-- The range of a number of `8 * w` bits, and its half, which the sign bit splits off. -/
theorem pow_bits {w : Nat} (hw : 0 < w) : 2 ^ (8 * w) = 2 * 2 ^ (8 * w - 1) ∧ 256 ^ w = 2 * 2 ^ (8 * w - 1) := by
  have hdouble : 2 ^ (8 * w) = 2 * 2 ^ (8 * w - 1) := by rw [← Nat.pow_succ']; congr 1; omega
  exact ⟨hdouble, by rw [← hdouble, Nat.pow_mul]⟩

section
variable {w : Nat} {signed : Bool} (hw : 0 < w)
include hw

/-- The two's complement of a legal value is a number of its field and stands for the value. -/
theorem fromUnsigned_twosComplement {v : Int} (h : inRange w signed v = true) :
    twosComplement v w < 256 ^ w ∧ fromUnsigned w signed (twosComplement v w) = v := by
  obtain ⟨hdouble, hbytes⟩ := pow_bits hw
  simp only [inRange, twosComplement, fromUnsigned, signExtend, hdouble, hbytes] at h ⊢
  generalize 2 ^ (8 * w - 1) = half at h ⊢
  cases signed with
  | false =>
    obtain ⟨hlow, hhigh⟩ := of_decide_eq_true h
    rw [if_pos hlow]
    exact ⟨by omega, Int.toNat_of_nonneg hlow⟩
  | true =>
    obtain ⟨hlow, hhigh⟩ := of_decide_eq_true h
    rw [if_pos rfl]
    split_ifs <;> omega

/-- A number of a field stands for a legal value, whose two's complement it is. -/
theorem twosComplement_fromUnsigned {u : Nat} (h : u < 256 ^ w) :
    inRange w signed (fromUnsigned w signed u) = true ∧ twosComplement (fromUnsigned w signed u) w = u := by
  obtain ⟨hdouble, hbytes⟩ := pow_bits hw
  simp only [inRange, twosComplement, fromUnsigned, signExtend, hdouble, hbytes] at h ⊢
  generalize 2 ^ (8 * w - 1) = half at h ⊢
  cases signed with
  | false => exact ⟨decide_eq_true (by simp; omega), by simp⟩
  | true =>
    simp only [if_true, decide_eq_true_eq]
    split_ifs <;> omega

theorem decodeInt_encodeInt {v : Int} (h : inRange w signed v = true) : decodeInt (encodeInt v w) signed = v := by
  obtain ⟨hlt, hv⟩ := fromUnsigned_twosComplement hw h
  rw [decodeInt_eq, encodeInt_eq, leBytes_length, leNat_leBytes, Nat.mod_eq_of_lt hlt, hv]

end

@[simp] theorem encodeInt_length (v : Int) (w : Nat) : (encodeInt v w).length = w := leBytes_length w _

section
variable {b : Bytes} {w : Nat} (hb : b.length = w) (hw : 0 < w) (signed : Bool)
include hb hw

theorem inRange_decodeInt : inRange w signed (decodeInt b signed) = true := by
  subst hb
  rw [decodeInt_eq]
  exact (twosComplement_fromUnsigned hw (leNat_lt b)).1

theorem encodeInt_decodeInt : encodeInt (decodeInt b signed) w = b := by
  subst hb
  rw [decodeInt_eq, encodeInt_eq, (twosComplement_fromUnsigned hw (leNat_lt b)).2, leBytes_leNat]

end

/-- Settles O31: the bytes and the number they make determine each other, and so do the number and the value. -/
theorem integerCodecRoundTrip : Obligations.IntegerCodecRoundTrip := by
  unfold Obligations.IntegerCodecRoundTrip
  intro w signed hwidth
  have hw : 0 < w := by omega
  exact ⟨fun v h => ⟨encodeInt_length v w, decodeInt_encodeInt hw h⟩,
    fun b hb => ⟨inRange_decodeInt hb hw signed, encodeInt_decodeInt hb hw signed⟩⟩

end Sys2Proof.Machine
end

section
/-! The laws of the field codec (spec/43_field_codec.md R179): one field packs and unpacks to itself, and a layout does
because only its last field can be greedy. -/

namespace Sys2Proof.Machine

theorem int_width_pos {t : Byte} {w : Nat} {signed : Bool} (h : fieldKind t = some (.int w signed)) : 0 < w := by
  rcases fieldKind_cases t with ⟨hk, -⟩ | ⟨hk, -⟩ | ⟨hk, -⟩ | ⟨hk, -⟩ | ⟨hk, -⟩ | ⟨hk, -⟩ | ⟨hk, -⟩ | ⟨hk, -⟩ |
    ⟨hk, -⟩ <;> cases hk.symm.trans h <;> decide

theorem fieldWidth_of_int {d : FieldDesc} {w : Nat} {signed : Bool} (h : fieldKind d.tag = some (.int w signed)) :
    fieldWidth d = w := by
  simp only [fieldWidth, h]

theorem fieldWidth_of_fixed {d : FieldDesc} (h : fieldKind d.tag = some .fixed) : fieldWidth d = d.n.toNat := by
  simp only [fieldWidth, h]

theorem fieldWidth_of_greedy {d : FieldDesc} (h : isGreedy d = true) : fieldWidth d = 0 := by
  simp only [fieldWidth, beq_iff_eq.1 h]

/-- Everything a field that packs can be (R173, R174). -/
theorem packField_eq_ok {d : FieldDesc} {v : FieldValue} {b : Bytes} (h : packField d v = .ok b) :
    (∃ w signed x, fieldKind d.tag = some (.int w signed) ∧ inRange w signed x = true ∧ v = .int x ∧
      b = encodeInt x w) ∨
    (fieldKind d.tag = some .fixed ∧ v = .bytes b ∧ b.length = d.n.toNat) ∨
    (isGreedy d = true ∧ v = .bytes b) := by
  unfold packField at h
  split at h
  next w signed x hk =>
    obtain ⟨hx, h⟩ | ⟨-, h⟩ := ite_eq_iff.1 h
    · exact .inl ⟨w, signed, x, hk, hx, rfl, (Except.ok.inj h).symm⟩
    · cases h
  next c hk =>
    obtain ⟨hlen, h⟩ | ⟨-, h⟩ := ite_eq_iff.1 h
    · cases h
      exact .inr (.inl ⟨hk, rfl, hlen⟩)
    · cases h
  next c hk =>
    cases h
    exact .inr (.inr ⟨beq_iff_eq.2 hk, rfl⟩)
  next => cases h
  next => cases h

/-- A field that is not greedy packs to its width, and unpacks from there whatever follows it. -/
theorem unpackField_of_packField {d : FieldDesc} {v : FieldValue} {b : Bytes} (hg : ¬ isGreedy d = true)
    (h : packField d v = .ok b) :
    b.length = fieldWidth d ∧ ∀ rest, unpackField d (b ++ rest) = v := by
  rcases packField_eq_ok h with ⟨w, signed, x, hk, hx, rfl, rfl⟩ | ⟨hk, rfl, hlen⟩ | ⟨hgreedy, -⟩
  · refine ⟨by rw [encodeInt_length, fieldWidth_of_int hk], fun rest => ?_⟩
    rw [unpackField_int hk, List.take_left' (encodeInt_length x w),
      decodeInt_encodeInt (int_width_pos hk) hx]
  · refine ⟨by rw [hlen, fieldWidth_of_fixed hk], fun rest => ?_⟩
    rw [unpackField_fixed hk, List.take_left' hlen]
  · exact absurd hgreedy hg

/-- A greedy field packs to the bytes it holds. -/
theorem packField_greedy_eq_ok {d : FieldDesc} {v : FieldValue} {b : Bytes} (hg : isGreedy d = true)
    (h : packField d v = .ok b) : v = .bytes b := by
  have hkind := beq_iff_eq.1 hg
  rcases packField_eq_ok h with ⟨w, signed, x, hk, -⟩ | ⟨hk, -⟩ | ⟨-, hv⟩
  · cases hkind.symm.trans hk
  · cases hkind.symm.trans hk
  · exact hv

/-- What an unpacked field packs to: the bytes it was read from. -/
theorem packField_unpackField {d : FieldDesc} {buf : Bytes} (htag : (fieldKind d.tag).isSome = true)
    (hg : ¬ isGreedy d = true) (hlen : fieldWidth d ≤ buf.length) :
    packField d (unpackField d buf) = .ok (buf.take (fieldWidth d)) := by
  have htake : (buf.take (fieldWidth d)).length = fieldWidth d := List.length_take_of_le hlen
  obtain ⟨kind, hk⟩ := Option.isSome_iff_exists.1 htag
  cases kind with
  | int w signed =>
    rw [fieldWidth_of_int hk] at htake ⊢
    have hrange := inRange_decodeInt htake (int_width_pos hk) signed
    have hbytes := encodeInt_decodeInt htake (int_width_pos hk) signed
    simp only [packField, unpackField_int hk, hk, hrange, hbytes, if_true]
  | fixed =>
    rw [fieldWidth_of_fixed hk] at htake ⊢
    simp only [packField, unpackField_fixed hk, hk, htake, if_true]
  | greedy => exact absurd (beq_iff_eq.2 hk) hg

theorem packField_unpackField_greedy {d : FieldDesc} (buf : Bytes) (hg : isGreedy d = true) :
    packField d (unpackField d buf) = .ok buf := by
  have hk := beq_iff_eq.1 hg
  simp only [packField, unpackField_greedy hk, hk]

/-- The encoding loop's success, field by field (R177). -/
theorem packFields_cons_eq_ok {vals : Values} {d : FieldDesc} {rest : Layout} {out : Bytes}
    (h : packFields vals (d :: rest) = .ok out) :
    ∃ v b bs, lookupValue d.name vals = some v ∧ packField d v = .ok b ∧ packFields vals rest = .ok bs ∧
      out = b ++ bs := by
  cases hv : lookupValue d.name vals with
  | none => simp only [packFields, hv] at h; cases h
  | some v =>
    rw [packFields_cons hv] at h
    obtain ⟨b, hb, h⟩ := bind_eq_ok.1 h
    obtain ⟨bs, hbs, h⟩ := bind_eq_ok.1 h
    exact ⟨v, b, bs, rfl, hb, hbs, (Except.ok.inj h).symm⟩

section
variable {vals : Values} {d : FieldDesc} {rest : Layout}

theorem inLayoutOrder_cons {v : FieldValue} (h : lookupValue d.name vals = some v) :
    inLayoutOrder (d :: rest) vals = (d.name, v) :: inLayoutOrder rest vals := by
  simp [inLayoutOrder, givenValue_eq_lookup, h]

theorem greedyLayout_cons_of_not_greedy (hg : ¬ isGreedy d = true) : greedyLayout (d :: rest) = greedyLayout rest := by
  cases rest with
  | nil => simpa [greedyLayout] using hg
  | cons => simp [greedyLayout]

theorem greedyLength_cons_of_not_greedy (hg : ¬ isGreedy d = true) :
    greedyLength (d :: rest) vals = greedyLength rest vals := by
  cases rest with
  | nil => simp [greedyLength, hg]
  | cons => simp [greedyLength]

theorem greedyLength_singleton (hg : isGreedy d = true) {b : Bytes}
    (h : lookupValue d.name vals = some (.bytes b)) : greedyLength [d] vals = b.length := by
  simp [greedyLength, hg, givenValue_eq_lookup, h]

end

theorem greedyLength_of_not_greedyLayout {lay : Layout} (h : greedyLayout lay = false) (vals : Values) :
    greedyLength lay vals = 0 := by
  unfold greedyLayout at h
  unfold greedyLength
  cases hlast : lay.getLast? with
  | none => rfl
  | some d => simp only [hlast] at h ⊢; simp [h]

/-- What the encoding loop packed has the length of its fields, and unpacks to them. -/
theorem unpackFields_of_packFields {vals : Values} {lay : Layout} {out : Bytes} (hlast : GreedyOnlyLast lay)
    (h : packFields vals lay = .ok out) :
    unpackFields lay out = inLayoutOrder lay vals ∧ out.length = fixedSize lay + greedyLength lay vals := by
  induction lay generalizing out with
  | nil =>
    cases h
    exact ⟨rfl, rfl⟩
  | cons d rest ih =>
    obtain ⟨hd, hlast⟩ := greedyOnlyLast_cons.1 hlast
    obtain ⟨v, b, bs, hv, hb, hbs, rfl⟩ := packFields_cons_eq_ok h
    rw [inLayoutOrder_cons hv, unpackFields, fixedSize]
    by_cases hg : isGreedy d = true
    · obtain rfl := hd hg
      obtain rfl := packField_greedy_eq_ok hg hb
      cases hbs
      rw [greedyLength_singleton hg hv, fieldWidth_of_greedy hg, unpackField_greedy (beq_iff_eq.1 hg)]
      simp [unpackFields, fixedSize, inLayoutOrder]
    · obtain ⟨hlen, hvalue⟩ := unpackField_of_packField hg hb
      obtain ⟨hfields, hrest⟩ := ih hlast hbs
      rw [hvalue, List.drop_left' hlen, hfields, greedyLength_cons_of_not_greedy hg, List.length_append, hlen, hrest]
      exact ⟨rfl, by omega⟩

/-- Law (a) (R179). -/
theorem unpack_pack {lay : Layout} {vals : Values} {out : Bytes} (h : pack lay vals = .ok out) :
    unpack lay out = .ok (inLayoutOrder lay vals) := by
  obtain ⟨hwf, -, -, -, hfields⟩ := pack_eq_ok h
  obtain ⟨hvalues, hlen⟩ := unpackFields_of_packFields (wfLayout_eq_ok_iff.1 hwf).2.1 hfields
  refine unpack_eq_ok.2 ⟨⟨(layoutOk_iff lay).2 hwf, by omega, fun hg => ?_⟩, hvalues.symm⟩
  rw [hlen, greedyLength_of_not_greedyLayout hg, Nat.add_zero]

/-- Law (c) (R179). -/
theorem pack_length {lay : Layout} {vals : Values} {out : Bytes} (h : pack lay vals = .ok out) :
    out.length = fixedSize lay + greedyLength lay vals := by
  obtain ⟨hwf, -, -, -, hfields⟩ := pack_eq_ok h
  exact (unpackFields_of_packFields (wfLayout_eq_ok_iff.1 hwf).2.1 hfields).2

theorem unpackFields_map_fst (lay : Layout) (buf : Bytes) :
    (unpackFields lay buf).map Prod.fst = lay.map FieldDesc.name := by
  induction lay generalizing buf with
  | nil => rfl
  | cons d rest ih => simp [unpackFields, ih]

/-- Where every unpacked pair can be looked up, the encoding loop gives the buffer back. -/
theorem packFields_of_unpackFields {vals : Values} {lay : Layout} {buf : Bytes}
    (htags : ∀ d ∈ lay, (fieldKind d.tag).isSome = true) (hlast : GreedyOnlyLast lay)
    (hlong : fixedSize lay ≤ buf.length) (hexact : greedyLayout lay = false → buf.length = fixedSize lay)
    (hvals : ∀ p ∈ unpackFields lay buf, lookupValue p.1 vals = some p.2) : packFields vals lay = .ok buf := by
  induction lay generalizing buf with
  | nil =>
    have hempty : buf = [] := List.eq_nil_of_length_eq_zero (hexact rfl)
    rw [hempty]
    rfl
  | cons d rest ih =>
    obtain ⟨hd, hlast⟩ := greedyOnlyLast_cons.1 hlast
    obtain ⟨htag, htags⟩ := List.forall_mem_cons.1 htags
    obtain ⟨hv, hvals⟩ := List.forall_mem_cons.1 hvals
    rw [packFields_cons hv]
    by_cases hg : isGreedy d = true
    · obtain rfl := hd hg
      rw [packField_unpackField_greedy buf hg]
      simp [packFields]
    · rw [fixedSize] at hlong hexact
      rw [greedyLayout_cons_of_not_greedy hg] at hexact
      have hrest : packFields vals rest = .ok (buf.drop (fieldWidth d)) := by
        refine ih htags hlast ?_ (fun hnot => ?_) hvals
        · rw [List.length_drop]
          omega
        · rw [List.length_drop, hexact hnot]
          omega
      rw [packField_unpackField htag hg (by omega), hrest]
      simp

/-- Law (b) (R179). -/
theorem pack_unpack {lay : Layout} {buf : Bytes} {res : Values} (h : unpack lay buf = .ok res) :
    pack lay res = .ok buf := by
  obtain ⟨⟨hok, hlong, hexact⟩, rfl⟩ := unpack_eq_ok.1 h
  obtain ⟨htags, hlast, hnodup⟩ := wfLayout_eq_ok_iff.1 ((layoutOk_iff lay).1 hok)
  have hnames := unpackFields_map_fst lay buf
  have honce : ((unpackFields lay buf).map Prod.fst).Nodup := hnames ▸ hnodup
  have hknown : ∀ p ∈ unpackFields lay buf, p.1 ∈ lay.map FieldDesc.name := fun p hp =>
    hnames ▸ List.mem_map_of_mem (f := Prod.fst) hp
  have hgiven : ∀ d ∈ lay, d.name ∈ (unpackFields lay buf).map Prod.fst := fun d hd =>
    hnames ▸ List.mem_map_of_mem (f := FieldDesc.name) hd
  rw [pack_eq_packFields hok hknown honce hgiven]
  exact packFields_of_unpackFields htags hlast hlong (fun hg => hexact hg) fun p hp => lookupValue_of_mem honce hp

/-- Settles O35, its laws by induction on the layout. -/
theorem fieldCodecLaws : Obligations.FieldCodecLaws :=
  ⟨fun _ _ _ => unpack_pack, fun _ _ _ => pack_unpack, fun _ _ _ => pack_length⟩

end Sys2Proof.Machine
end

section
/-! Receiving a built frame (spec/46_packet.md R278 to R283, spec/44_registry.md R214 to R218): what DISASSEMBLE answers
to an instruction frame of a registry entry and to a status frame, under either policy. -/

namespace Sys2Proof.Machine

theorem unpackFits_of_unpack {lay : Layout} {params : Bytes} {fields : Values} (h : unpack lay params = .ok fields) :
    UnpackFits lay params.length ∧ unpackFields lay params = fields := by
  obtain ⟨hfits, rfl⟩ := unpack_eq_ok.1 h
  exact ⟨hfits, rfl⟩

/-- The packet record of a built frame under a resolution: the CRC is its own, and matches. -/
theorem packetOf_frameOf (op id : Byte) (params : Bytes) (r : Resolved) :
    packetOf (frameOf op id (stuffedParams op params)) r =
      { dir := r.dir, name := r.name, id := id, fields := unpackFields r.layout params,
        raw := frameOf op id (stuffedParams op params),
        crc := recomputedCrc (frameOf op id (stuffedParams op params)), crcOk := true } := by
  simp [packetOf, unstuffedParams_frameOf, carriedCrc_frameOf, frameOf_id]

/-- A wire instruction does what DISASSEMBLE does with its frame, written by its offsets. -/
theorem exec_wire_eq_disassemble {i : Instr} {op id : Byte} {params : Bytes}
    (h : encode i = .frame (buildFrame op id params)) (s : State) :
    exec i s = exec (.disassemble (frameOf op id (stuffedParams op params))) s := by
  rw [exec_eq_disassemble h, buildFrame_eq]

section
variable {s : State} {e : Entry} (he : e ∈ s.params.registry.entries) {id : Byte} (hid : LegalPacketId id)
  {params : Bytes} {fields : Values}
include he hid

/-- An instruction frame of a registry entry is received as that entry's instruction (R280, R281). -/
theorem exec_disassemble_instruction (hfits : (stuffedParams e.op params).length + 3 ≤ 0xFFFF)
    (hfields : unpack e.outLayout params = .ok fields) :
    exec (.disassemble (frameOf e.op id (stuffedParams e.op params))) s =
      .next (s.received e.op id e.name fields params) := by
  obtain ⟨hunpack, rfl⟩ := unpackFits_of_unpack hfields
  have hopen := acceptableFrame_frameOf s.params.crcPolicy hid hfits
  have hresolve : resolve s.params s.block (byteAt (frameOf e.op id (stuffedParams e.op params)) 7) =
      .ok ⟨.instruction, e.outLayout, instructionName e⟩ := resolve_instruction he
  rw [(exec_disassemble_of_resolved hopen hresolve (registry_layouts he).1).2
    (by rwa [unstuffedParams_frameOf]), packetOf_frameOf]
  rfl

/-- A status frame is received as the reply to the last instruction, whose entry the set cell names (R216). -/
theorem exec_disassemble_status (hset : s.block.lastValid = true) (hop : e.op = s.block.lastOp)
    (hfits : (stuffedParams 0x55 params).length + 3 ≤ 0xFFFF) (hunpack : UnpackFits e.inLayout params.length) :
    exec (.disassemble (frameOf 0x55 id (stuffedParams 0x55 params))) s =
      .next (s.afterOk s.block (.packet
        { dir := .status, name := statusName e, id := id, fields := unpackFields e.inLayout params,
          raw := frameOf 0x55 id (stuffedParams 0x55 params),
          crc := recomputedCrc (frameOf 0x55 id (stuffedParams 0x55 params)), crcOk := true })) := by
  have hopen := acceptableFrame_frameOf s.params.crcPolicy hid hfits
  have hresolve : resolve s.params s.block (byteAt (frameOf 0x55 id (stuffedParams 0x55 params)) 7) =
      .ok ⟨.status, e.inLayout, statusName e⟩ := resolve_status he hset hop
  rw [(exec_disassemble_of_resolved hopen hresolve (registry_layouts he).2).2
    (by rwa [unstuffedParams_frameOf]), packetOf_frameOf]
  rfl

end

/-- Everything an ASSEMBLE that delivers a frame has done: the frame is that of the entry with the name, its params the
packed values (R273). -/
theorem exec_assemble_eq_assembled {e : Entry} {id : Byte} {vals : Values} {s t : State} {f : Bytes} {p : Packet}
    (he : e ∈ s.params.registry.entries) (h : exec (.assemble e.name id vals) s = .next t)
    (hres : t.result = some (.ok (.assembled f p))) :
    LegalPacketId id ∧ ∃ params, pack e.outLayout vals = .ok params ∧
      (stuffedParams e.op params).length + 3 ≤ 0xFFFF ∧ f = frameOf e.op id (stuffedParams e.op params) ∧
      p.crc = recomputedCrc f := by
  rcases answer_cases h with ⟨b, v, hok, rfl⟩ | ⟨x, -, rfl⟩
  · obtain ⟨e', he', hname, hid, params, hpack, hfits, -, hv⟩ := assemble_eq_ok hok
    obtain rfl : e' = e := Except.ok.inj ((hname ▸ byName_of_mem he').symm.trans (byName_of_mem he))
    rw [assembledPacket_eq] at hv
    subst hv
    cases hres
    exact ⟨hid, params, hpack, by rwa [← declaredLength_eq], rfl, rfl⟩
  · cases hres

/-- Settles O47: the assembled frame opens under either policy, resolves to the entry it was built from, and its params
unpack to the values they were packed from. -/
theorem assembleThenDisassemble : Obligations.AssembleThenDisassemble := by
  unfold Obligations.AssembleThenDisassemble
  intro e id vals s t u f p he h hres hreg
  obtain ⟨hid, params, hpack, hfits, rfl, hcrc⟩ := exec_assemble_eq_assembled he h hres
  rw [exec_disassemble_instruction (hreg ▸ he) hid hfits (unpack_pack hpack), hcrc]
  rfl

/-- Settles O54: a status frame opens whatever the registry, and resolves through the cell or not at all. -/
theorem statusFrameCorrelates : Obligations.StatusFrameCorrelates := by
  unfold Obligations.StatusFrameCorrelates
  intro id params s hid hfits f
  have hwire : exec (.status id params) s = exec (.disassemble f) s := exec_wire_eq_disassemble rfl s
  refine ⟨fun e he hset hop hunpack => ?resolved, fun hunset => ?unset⟩
  case resolved => exact hwire.trans (exec_disassemble_status he hid hset hop hfits hunpack)
  case unset =>
    have hopen : AcceptableFrame s.params.crcPolicy f := acceptableFrame_frameOf _ hid hfits
    exact hwire.trans (exec_disassemble_of_unresolved hopen (resolve_status_of_unset s.params hunset))

end Sys2Proof.Machine
end

section
/-! The reference registry (spec/44_registry.md R221 to R233): its rows, the params of each row's layout, and the frames
of its instructions as the block receives them. -/

namespace Sys2Proof.Machine

/-- Settles O49: the rows are those of `refEntries`, and its check was made where it was built. -/
theorem referenceRegistryRows : Obligations.ReferenceRegistryRows := ⟨refRegistry.wf, rfl⟩

section
variable (nm : Name) (lay : Layout) (buf : Bytes)

theorem leNat_lowByte_highByte (x : Half) : leNat [lowByte x, highByte x] = x.toNat := by
  rw [← halfBytes_eq, halfBytes, leNat_leBytes]
  exact Nat.mod_eq_of_lt x.isLt

theorem unpackFields_u8 (b : Byte) :
    unpackFields (u8Field nm :: lay) (b :: buf) = (nm, .int b.toNat) :: unpackFields lay buf := by
  simp [unpackFields, unpackField, fieldWidth, u8Field, fieldKind, decodeInt, leNat]

theorem unpackFields_u16 (x : Half) :
    unpackFields (u16Field nm :: lay) (lowByte x :: highByte x :: buf) =
      (nm, .int x.toNat) :: unpackFields lay buf := by
  simp [unpackFields, unpackField, fieldWidth, u16Field, fieldKind, decodeInt, leNat_lowByte_highByte]

theorem unpackFields_greedyField : unpackFields [greedyField nm] buf = [(nm, .bytes buf)] := rfl

theorem unpackFields_bytesField {n : Half} (h : buf.length = n.toNat) :
    unpackFields [bytesField nm n] buf = [(nm, .bytes buf)] := by
  have htake : buf.take n.toNat = buf := by rw [← h, List.take_length]
  simp [unpackFields, unpackField, bytesField, fieldKind, htake]

end

section
variable (a l : Half) (nm : Name) (rest : Bytes)

theorem unpack_empty : unpack [] [] = .ok [] := rfl

theorem unpack_addressLength : unpack [u16Field "address", u16Field "length"]
    [lowByte a, highByte a, lowByte l, highByte l] =
      .ok [("address", .int a.toNat), ("length", .int l.toNat)] :=
  unpack_eq_ok.2 ⟨⟨by decide, Nat.le_refl 4, fun _ => rfl⟩, by rw [unpackFields_u16, unpackFields_u16]; rfl⟩

theorem unpack_addressData : unpack [u16Field "address", greedyField "data"] (lowByte a :: highByte a :: rest) =
    .ok [("address", .int a.toNat), ("data", .bytes rest)] :=
  unpack_eq_ok.2 ⟨⟨by decide, Nat.le_add_left 2 _, nofun⟩, by rw [unpackFields_u16]; rfl⟩

theorem unpack_option (option : Byte) : unpack [u8Field "option"] [option] = .ok [("option", .int option.toNat)] :=
  unpack_eq_ok.2 ⟨⟨by decide, Nat.le_refl 1, fun _ => rfl⟩, by rw [unpackFields_u8]; rfl⟩

theorem unpack_optionKey (option : Byte) {key : Bytes} (hkey : key.length = 4) :
    unpack [u8Field "option", bytesField "key" 4] (option :: key) =
      .ok [("option", .int option.toNat), ("key", .bytes key)] := by
  have hlen : (option :: key).length = 5 := by rw [List.length_cons, hkey]
  exact unpack_eq_ok.2 ⟨⟨by decide, hlen.ge, fun _ => hlen⟩,
    by rw [unpackFields_u8, unpackFields_bytesField _ _ hkey]⟩

theorem unpack_syncIds : unpack [u16Field "address", u16Field "length", greedyField "ids"]
    (lowByte a :: highByte a :: lowByte l :: highByte l :: rest) =
      .ok [("address", .int a.toNat), ("length", .int l.toNat), ("ids", .bytes rest)] :=
  unpack_eq_ok.2 ⟨⟨by decide, Nat.le_add_left 4 _, nofun⟩, by rw [unpackFields_u16, unpackFields_u16]; rfl⟩

theorem unpack_syncData : unpack [u16Field "address", u16Field "length", greedyField "data"]
    (lowByte a :: highByte a :: lowByte l :: highByte l :: rest) =
      .ok [("address", .int a.toNat), ("length", .int l.toNat), ("data", .bytes rest)] :=
  unpack_eq_ok.2 ⟨⟨by decide, Nat.le_add_left 4 _, nofun⟩, by rw [unpackFields_u16, unpackFields_u16]; rfl⟩

theorem unpack_data : unpack [greedyField "data"] rest = .ok [("data", .bytes rest)] :=
  unpack_eq_ok.2 ⟨⟨by decide, Nat.zero_le _, nofun⟩, rfl⟩

theorem readParams_eq : readParams a l = [lowByte a, highByte a, lowByte l, highByte l] := by
  simp [readParams, halfBytes_eq]

theorem writeParams_eq : writeParams a rest = lowByte a :: highByte a :: rest := by
  simp [writeParams, halfBytes_eq]

theorem syncParams_eq : syncParams a l rest = lowByte a :: highByte a :: lowByte l :: highByte l :: rest := by
  simp [syncParams, halfBytes_eq]

end

/-- Stuffing at most doubles a span: each byte brings at most one escape (R142). -/
theorem stuff_length_le (w : Window) (x : Bytes) : (stuff w x).1.length ≤ 2 * x.length := by
  induction x generalizing w with
  | nil => simp
  | cons b xs ih =>
    have hrest := ih (winStep w b).1
    have hzero := ih .zero
    cases hmatch : (winStep w b).2 with
    | true => simp only [stuff_cons_matched xs hmatch, List.length_cons]; omega
    | false => simp only [stuff_cons_unmatched xs hmatch, List.length_cons]; omega

theorem stuffedParams_fits_of_short (op : Byte) {params : Bytes} (h : params.length ≤ 32766) :
    (stuffedParams op params).length + 3 ≤ 0xFFFF := by
  have hstuff := stuff_length_le (primedWindow op) params
  rw [stuffedParams]
  omega

section
variable {s : State} (hreg : s.params.registry = refRegistry) {id : Byte} (hid : LegalPacketId id)
include hreg hid

/-- With REF as the registry, the frame of one of its rows is received as that row's instruction. -/
theorem exec_wire_of_ref {e : Entry} {i : Instr} {params params' : Bytes} {fields : Values} (he : e ∈ refEntries)
    (hwire : encode i = .frame (buildFrame e.op id params')) (hparams : params' = params)
    (hfits : (stuffedParams e.op params).length + 3 ≤ 0xFFFF) (hfields : unpack e.outLayout params = .ok fields) :
    exec i s = .next (s.received e.op id e.name fields params) := by
  subst hparams
  have hmem : e ∈ s.params.registry.entries := by rwa [hreg]
  rw [exec_wire_eq_disassemble hwire, exec_disassemble_instruction hmem hid hfits hfields]

end

/-- The row of REF at a position. -/
theorem refEntries_getElem_mem (k : Fin 12) : refEntries[k] ∈ refEntries := List.getElem_mem _

/-- Settles O50: four rows of REF, whose params are too short for their stuffing to fill a frame. -/
theorem pingReadActionRebootReceived : Obligations.PingReadActionRebootReceived := by
  unfold Obligations.PingReadActionRebootReceived
  intro id a l s hreg hid
  refine ⟨?ping, ?read, ?action, ?reboot⟩
  case ping =>
    exact exec_wire_of_ref hreg hid (refEntries_getElem_mem 0) rfl rfl (stuffedParams_fits_of_short _ (by simp))
      unpack_empty
  case read =>
    exact exec_wire_of_ref hreg hid (refEntries_getElem_mem 1) rfl (readParams_eq a l)
      (stuffedParams_fits_of_short _ (by simp)) (unpack_addressLength a l)
  case action =>
    exact exec_wire_of_ref hreg hid (refEntries_getElem_mem 4) rfl rfl (stuffedParams_fits_of_short _ (by simp))
      unpack_empty
  case reboot =>
    exact exec_wire_of_ref hreg hid (refEntries_getElem_mem 6) rfl rfl (stuffedParams_fits_of_short _ (by simp))
      unpack_empty

/-- Settles O51: two rows of REF with one layout. -/
theorem writeFramesReceived : Obligations.WriteFramesReceived := by
  unfold Obligations.WriteFramesReceived
  intro id a data s hreg hid params fields
  refine ⟨fun hfits => ?write, fun hfits => ?regWrite⟩
  case write =>
    exact exec_wire_of_ref hreg hid (refEntries_getElem_mem 2) rfl (writeParams_eq a data) hfits
      (unpack_addressData a data)
  case regWrite =>
    exact exec_wire_of_ref hreg hid (refEntries_getElem_mem 3) rfl (writeParams_eq a data) hfits
      (unpack_addressData a data)

/-- Settles O52: two rows of REF, whose params are too short for their stuffing to fill a frame. -/
theorem optionFramesReceived : Obligations.OptionFramesReceived := by
  unfold Obligations.OptionFramesReceived
  intro id option key s hreg hid
  refine ⟨?factoryReset, fun hkey => ?clear⟩
  case factoryReset =>
    exact exec_wire_of_ref hreg hid (refEntries_getElem_mem 5) rfl rfl (stuffedParams_fits_of_short _ (by simp))
      (unpack_option option)
  case clear =>
    exact exec_wire_of_ref hreg hid (refEntries_getElem_mem 7) rfl rfl (stuffedParams_fits_of_short _ (by simp [hkey]))
      (unpack_optionKey option hkey)

/-- Settles O53: the four rows of REF that address groups. -/
theorem groupFramesReceived : Obligations.GroupFramesReceived := by
  unfold Obligations.GroupFramesReceived
  intro id a l rest s hreg hid params
  refine ⟨fun hfits => ?syncRead, fun hfits => ?syncWrite, fun hfits => ?bulkRead, fun hfits => ?bulkWrite⟩
  case syncRead =>
    exact exec_wire_of_ref hreg hid (refEntries_getElem_mem 8) rfl (syncParams_eq a l rest) hfits
      (unpack_syncIds a l rest)
  case syncWrite =>
    exact exec_wire_of_ref hreg hid (refEntries_getElem_mem 9) rfl (syncParams_eq a l rest) hfits
      (unpack_syncData a l rest)
  case bulkRead =>
    exact exec_wire_of_ref hreg hid (refEntries_getElem_mem 10) rfl rfl hfits (unpack_data rest)
  case bulkWrite =>
    exact exec_wire_of_ref hreg hid (refEntries_getElem_mem 11) rfl rfl hfits (unpack_data rest)

end Sys2Proof.Machine
end

section
/-! The effect of an instruction (spec/10_state.md R39, R41, R42, R47, spec/20_memory.md R70): what it computes from the
parameters and the architectural state, before `State.answer` reports it. What an instruction writes, raises and depends
on is read off its effect. -/

namespace Sys2Proof.Machine

/-- What an instruction does to a block: the block and the value it returns, or the error it raises. -/
def effect (i : Instr) (p : Params) (b : Block) : Except Raise (Block × Answer) :=
  match i with
  | .crc16 seed data => .ok (b.withCrc (crc16 seed data), .crc (crc16 seed data))
  | .crcFeed data => .ok (b.withCrc (crc16 b.crcAcc data), .crc (crc16 b.crcAcc data))
  | .stuff w0 data => (stuffAnswer w0 data).map fun v => (b, v)
  | .unstuff w0 p0 data => (unstuffAnswer w0 p0 data).map fun v => (b, v)
  | .pack layout values => (pack layout values).map fun out => (b, .bytes out)
  | .unpack layout data => (unpack layout data).map fun vals => (b, .values vals)
  | .getField values fname => (getField values fname).map fun v => (b, .value v)
  | .detPush x => (detPush b.detState b.detBuf x).map fun r => (b.withDetector r.1 r.2, .detState r.1)
  | .detClear => .ok (b.withDetector .idle [], .none)
  | .assemble iname id values => assemble p b iname id values
  | .reset => .ok (Block.reset, .none)
  | i => disassemble p b (rawOperand i)

/-- The effect says all there is to an instruction's meaning. -/
theorem exec_eq_effect (i : Instr) (s : State) :
    exec i s = s.answer (rawOperand i) (effect i s.params s.block) := by
  cases i <;> rfl

/-- Everything an instruction can end in: the success or the error of its effect. -/
theorem exec_cases {i : Instr} {s t : State} (h : exec i s = .next t) :
    (∃ b v, effect i s.params s.block = .ok (b, v) ∧ t = s.afterOk b v) ∨
    (∃ r, effect i s.params s.block = .error r ∧ t = s.afterError (rawOperand i) r) :=
  answer_cases ((exec_eq_effect i s).symm.trans h)

theorem ErrorKind.code_ne_zero (k : ErrorKind) : k.code ≠ 0x00 := by
  cases k <;> decide

/-- Settles O9: both ends of an instruction write `status`, and no error kind has the code of success. -/
theorem statusReportsOutcome : Obligations.StatusReportsOutcome := by
  unfold Obligations.StatusReportsOutcome
  intro i s t h
  rcases exec_cases h with ⟨b, v, -, rfl⟩ | ⟨r, -, rfl⟩
  · exact .inl ⟨v, rfl, rfl⟩
  · exact .inr ⟨_, rfl, rfl, r.kind.code_ne_zero⟩

section
variable {α β : Type} {x : Except Raise α} {f : α → β}

theorem map_eq_ok {y : β} : x.map f = .ok y ↔ ∃ a, x = .ok a ∧ f a = y := by
  cases x <;> simp [Except.map]

theorem map_eq_error {r : Raise} : x.map f = .error r ↔ x = .error r := by
  cases x <;> simp [Except.map]

end

/-- What a success may have written to the block, by the columns of the table of writes (R47). -/
inductive Writes (b : Block) (i : Instr) : Block → Prop where
  | nothing : Writes b i b
  | crc {c : Half} (h : writesCrc i = true) : Writes b i (b.withCrc c)
  | detector {d : DetState} {buf : Bytes} (h : writesDetector i = true) : Writes b i (b.withDetector d buf)
  | cell {op : Byte} (h : writesCell i = true) : Writes b i (b.recordInstruction op)
  | all (h : i = .reset) : Writes b i Block.reset

section
variable {p : Params} {b c : Block} {i : Instr} {v : Answer}

/-- A disassembled frame writes nothing, or, if it is not a status frame, the cell (R280). -/
theorem block_of_disassemble {f : Bytes} (h : disassemble p b f = .ok (c, v)) :
    c = b ∨ byteAt f 7 ≠ 0x55 ∧ c = b.recordInstruction (byteAt f 7) := by
  obtain ⟨-, r, hr, -, rfl, -⟩ := disassemble_eq_ok h
  rcases resolve_eq_ok hr with ⟨-, e, -, -, -, rfl⟩ | ⟨hinst, e, -, -, rfl⟩
  · exact .inl rfl
  · exact .inr ⟨hinst, rfl⟩

theorem writes_of_disassemble {f : Bytes} (hi : writesCell i = true) (h : disassemble p b f = .ok (c, v)) :
    Writes b i c := by
  rcases block_of_disassemble h with rfl | ⟨-, rfl⟩
  · exact .nothing
  · exact .cell hi

theorem writes_nothing_of_map {α : Type} {x : Except Raise α} {f : α → Answer}
    (h : (x.map fun a => (b, f a)) = .ok (c, v)) : Writes b i c := by
  obtain ⟨a, -, heq⟩ := map_eq_ok.1 h
  cases heq
  exact .nothing

theorem writes_of_effect (h : effect i p b = .ok (c, v)) : Writes b i c := by
  cases i with
  | crc16 | crcFeed => cases h; exact .crc rfl
  | stuff | unstuff | pack | unpack | getField => exact writes_nothing_of_map h
  | detPush =>
    obtain ⟨r, -, heq⟩ := map_eq_ok.1 h
    cases heq
    exact .detector rfl
  | detClear => cases h; exact .detector rfl
  | assemble =>
    obtain ⟨e, -, -, -, params, -, -, rfl, -⟩ := assemble_eq_ok h
    exact .cell rfl
  | reset => cases h; exact .all rfl
  | status id params =>
    rcases block_of_disassemble h with rfl | ⟨hinst, -⟩
    · exact .nothing
    · exact absurd (buildFrame_inst 0x55 id params) hinst
  | disassemble | ping | read | write | regWrite | action | factoryReset | reboot | clear | syncRead | syncWrite
  | bulkRead | bulkWrite => exact writes_of_disassemble rfl h

end

section
variable {b c : Block} {i : Instr} (h : Writes b i c)
include h

theorem Writes.keeps_crc (hi : writesCrc i = false) : c.crcAcc = b.crcAcc := by
  cases h with
  | nothing | detector | cell => rfl
  | crc h => cases hi.symm.trans h
  | all h => subst h; cases hi

theorem Writes.keeps_detector (hi : writesDetector i = false) : c.detState = b.detState ∧ c.detBuf = b.detBuf := by
  cases h with
  | nothing | crc | cell => exact ⟨rfl, rfl⟩
  | detector h => cases hi.symm.trans h
  | all h => subst h; cases hi

theorem Writes.keeps_cell (hi : writesCell i = false) : c.lastOp = b.lastOp ∧ c.lastValid = b.lastValid := by
  cases h with
  | nothing | crc | detector => exact ⟨rfl, rfl⟩
  | cell h => cases hi.symm.trans h
  | all h => subst h; cases hi

end

/-- Settles O10: a success wrote what `Writes` allows, and an error wrote `status` alone. -/
theorem onlyListedElementsAreWritten : Obligations.OnlyListedElementsAreWritten := by
  unfold Obligations.OnlyListedElementsAreWritten
  intro i s t h
  rcases exec_cases h with ⟨b, v, heffect, rfl⟩ | ⟨r, -, rfl⟩
  · have hwrites := writes_of_effect heffect
    exact ⟨hwrites.keeps_crc, hwrites.keeps_detector, hwrites.keeps_cell, rfl, rfl⟩
  · exact ⟨fun _ => rfl, fun _ => ⟨rfl, rfl⟩, fun _ => ⟨rfl, rfl⟩, rfl, rfl⟩

/-- What is read off a sequence of checks is the same where it is the same of their continuations. -/
theorem map_bind_congr {α β γ : Type} {x : Except Raise α} {k k' : α → Except Raise β} {g : β → γ}
    (h : ∀ a, (k a).map g = (k' a).map g) : (x >>= k).map g = (x >>= k').map g := by
  cases x with
  | ok a => exact h a
  | error r => rfl

theorem map_map_congr {α β γ : Type} (x : Except Raise α) {f f' : α → β} {g : β → γ} (h : ∀ a, g (f a) = g (f' a)) :
    (x.map f).map g = (x.map f').map g := by
  cases x with
  | ok a => exact congrArg Except.ok (h a)
  | error r => rfl

/-- What is left of an effect once its end has written `status`. -/
def withSuccess (e : Block × Answer) : Block × Answer := (e.1.withStatus Status.success, e.2)

theorem withSuccess_correlate (b : Block) (st : Status) (dir : Direction) (inst : Byte) (v : Answer) :
    withSuccess (correlate (b.withStatus st) dir inst, v) = withSuccess (correlate b dir inst, v) := by
  cases dir <;> rfl

theorem resolve_withStatus (p : Params) (b : Block) (st : Status) (inst : Byte) :
    resolve p (b.withStatus st) inst = resolve p b inst := rfl

theorem disassemble_withStatus (p : Params) (b : Block) (st : Status) (f : Bytes) :
    (disassemble p (b.withStatus st) f).map withSuccess = (disassemble p b f).map withSuccess := by
  unfold disassemble
  refine map_bind_congr fun o => ?_
  rw [resolve_withStatus]
  refine map_bind_congr fun r => map_bind_congr fun fields => ?_
  exact congrArg Except.ok (withSuccess_correlate b st r.dir o.inst _)

/-- ASSEMBLE reads nothing of the block, so all that is read off its end is read off the entry's record. -/
theorem assemble_congr {γ : Type} {g : Block × Answer → γ} (p : Params) {b c : Block} (iname : Name) (id : Byte)
    (vals : Values) (h : ∀ op v, g (b.recordInstruction op, v) = g (c.recordInstruction op, v)) :
    (assemble p b iname id vals).map g = (assemble p c iname id vals).map g := by
  unfold assemble
  refine map_bind_congr fun e => map_bind_congr fun _ => map_bind_congr fun params => map_bind_congr fun _ => ?_
  exact congrArg Except.ok (h e.op _)

/-- An effect does not depend on `status`. -/
theorem effect_withStatus (i : Instr) (p : Params) (b : Block) (st : Status) :
    (effect i p (b.withStatus st)).map withSuccess = (effect i p b).map withSuccess := by
  cases i with
  | crc16 | crcFeed | detClear | reset => rfl
  | stuff | unstuff | pack | unpack | getField | detPush => exact map_map_congr _ fun _ => rfl
  | assemble iname id vals => exact assemble_congr p iname id vals fun _ _ => rfl
  | disassemble | status | ping | read | write | regWrite | action | factoryReset | reboot | clear | syncRead
  | syncWrite | bulkRead | bulkWrite => exact disassemble_withStatus p b st _

/-- Effects that differ in `status` alone end in the same block and result. -/
theorem answer_congr {s s' t t' : State} {raw : Bytes} {r r' : Except Raise (Block × Answer)} {st : Status}
    (hblock : s'.block = s.block.withStatus st) (hr : r'.map withSuccess = r.map withSuccess)
    (h : s.answer raw r = .next t) (h' : s'.answer raw r' = .next t') : t.block = t'.block ∧ t.result = t'.result := by
  rcases answer_cases h with ⟨b, v, rfl, rfl⟩ | ⟨e, rfl, rfl⟩
  · obtain ⟨⟨b', v'⟩, rfl, heq⟩ := map_eq_ok.1 hr
    obtain rfl : s'.afterOk b' v' = t' := Host.Outcome.next.inj h'
    obtain ⟨hb, rfl⟩ := Prod.mk.inj heq
    exact ⟨hb.symm, rfl⟩
  · obtain rfl := map_eq_error.1 hr
    obtain rfl : s'.afterError raw e = t' := Host.Outcome.next.inj h'
    rw [afterError_block, afterError_block, hblock]
    exact ⟨rfl, rfl⟩

/-- Settles O13: the effect reads the parameters and the block but `status`, and the end reads nothing more. -/
theorem resultsDependOnlyOnBlock : Obligations.ResultsDependOnlyOnBlock := by
  unfold Obligations.ResultsDependOnlyOnBlock
  intro i s s' t t' hparams hblock h h'
  have hstatus : s'.block = s.block.withStatus s'.block.status := hblock.symm
  rw [exec_eq_effect] at h h'
  refine answer_congr hstatus ?_ h h'
  rw [← hparams, hstatus]
  exact effect_withStatus i s.params s.block _

/-- A command that computes from its operands alone and writes nothing else repeats itself. -/
theorem answer_map_repeats {α : Type} {x : Except Raise α} {f : α → Answer} {s t : State} {raw : Bytes}
    (h : s.answer raw (x.map fun a => (s.block, f a)) = .next t) :
    t.answer raw (x.map fun a => (t.block, f a)) = .next t := by
  cases x with
  | ok a =>
    obtain rfl : s.afterOk s.block (f a) = t := Host.Outcome.next.inj h
    rfl
  | error r =>
    obtain rfl : s.afterError raw r = t := Host.Outcome.next.inj h
    rfl

/-- An answer's result is the value or the error it was given. -/
theorem answer_result_congr {s s' t t' : State} {raw : Bytes} {r r' : Except Raise (Block × Answer)}
    (hr : r.map Prod.snd = r'.map Prod.snd) (h : s.answer raw r = .next t) (h' : s'.answer raw r' = .next t') :
    t'.result = t.result := by
  rcases answer_cases h' with ⟨b, v, rfl, rfl⟩ | ⟨e, rfl, rfl⟩
  · obtain ⟨⟨c, v⟩, rfl, rfl⟩ := map_eq_ok.1 hr
    obtain rfl : s.afterOk c v = t := Host.Outcome.next.inj h
    rfl
  · obtain rfl := map_eq_error.1 hr
    obtain rfl : s.afterError raw e = t := Host.Outcome.next.inj h
    rfl

/-- Settles O14: what each listed command writes and answers comes from its operands, so a second run writes it again;
ASSEMBLE's result comes from its operands and the registry. -/
theorem idempotentCommandsRepeat : Obligations.IdempotentCommandsRepeat := by
  unfold Obligations.IdempotentCommandsRepeat
  refine ⟨fun i s t hlisted h => ?repeats, fun iname id vals s t u h hagain => ?assemble⟩
  case repeats =>
    cases i with
    | crc16 | detClear | reset =>
      obtain rfl := Host.Outcome.next.inj h
      rfl
    | stuff | unstuff | pack | unpack | getField => exact answer_map_repeats h
    | crcFeed | detPush | assemble | disassemble | status | ping | read | write | regWrite | action | factoryReset
    | reboot | clear | syncRead | syncWrite | bulkRead | bulkWrite => exact hlisted.elim
  case assemble =>
    obtain ⟨-, -, -, hparams, -⟩ := onlyListedElementsAreWritten _ s t h
    refine answer_result_congr ?_ h hagain
    rw [hparams]
    exact assemble_congr s.params iname id vals fun _ _ => rfl

end Sys2Proof.Machine
end

section
/-! The errors (spec/60_exceptions.md R320, R326, R346): the kinds each check, lookup and codec function raises, and
from those the kinds of each instruction. -/

namespace Sys2Proof.Machine

/-- Every error kind, in the order of R320. -/
def allKinds : List ErrorKind :=
  [.malformedFrame, .unknownInstruction, .unknownField, .notWritable, .sizeMismatch, .noPriorInstruction,
    .receiveTimeout, .responseTimeout, .badCommand, .badOperand, .layoutError, .missingField, .fieldValue,
    .payloadLength, .idRange, .frameTooLong, .detectorBusy]

theorem mem_allKinds (k : ErrorKind) : k ∈ allKinds := by
  cases k <;> decide

theorem allKinds_codes_nodup : (allKinds.map ErrorKind.code).Nodup := by decide

/-- Settles O12: the table lists every kind, and its codes are distinct. -/
theorem errorCodesAreDistinct : Obligations.ErrorCodesAreDistinct :=
  ⟨rfl, fun k k' => List.inj_on_of_nodup_map allKinds_codes_nodup (mem_allKinds k) (mem_allKinds k')⟩

section
variable {r : Raise}

theorem windowOperand_error_kind {w0 : BitVec 2} (h : windowOperand w0 = .error r) : r.kind = .badOperand := by
  unfold windowOperand at h
  split at h <;> cases h
  rfl

theorem wfLayoutFrom_error_kind {seen : List Name} {lay : Layout} (h : wfLayoutFrom seen lay = .error r) :
    r.kind = .layoutError := by
  induction lay generalizing seen with
  | nil => cases h
  | cons d rest ih =>
    unfold wfLayoutFrom at h
    obtain ⟨-, h⟩ | ⟨-, h⟩ := ite_eq_iff.1 h
    · cases h; rfl
    obtain ⟨-, h⟩ | ⟨-, h⟩ := ite_eq_iff.1 h
    · cases h; rfl
    obtain ⟨-, h⟩ | ⟨-, h⟩ := ite_eq_iff.1 h
    · cases h; rfl
    · exact ih h

theorem checkUnknown_error_kind {lay : Layout} {vals : Values} (h : checkUnknown lay vals = .error r) :
    r.kind = .unknownField := by
  induction vals with
  | nil => cases h
  | cons p rest ih =>
    obtain ⟨-, h⟩ | ⟨-, h⟩ := ite_eq_iff.1 h
    · exact ih h
    · cases h; rfl

theorem checkDup_error_kind {seen : List Name} {vals : Values} (h : checkDup seen vals = .error r) :
    r.kind = .fieldValue := by
  induction vals generalizing seen with
  | nil => cases h
  | cons p rest ih =>
    obtain ⟨-, h⟩ | ⟨-, h⟩ := ite_eq_iff.1 h
    · cases h; rfl
    · exact ih h

theorem checkMissing_error_kind {vals : Values} {lay : Layout} (h : checkMissing vals lay = .error r) :
    r.kind = .missingField := by
  induction lay with
  | nil => cases h
  | cons d rest ih =>
    obtain ⟨-, h⟩ | ⟨-, h⟩ := ite_eq_iff.1 h
    · exact ih h
    · cases h; rfl

/-- On a defined tag only the value can be at fault. -/
theorem packField_error_kind {d : FieldDesc} {v : FieldValue} (htag : (fieldKind d.tag).isSome = true)
    (h : packField d v = .error r) : r.kind = .fieldValue := by
  by_cases hlegal : LegalValue d v
  · cases (packField_of_legal hlegal).symm.trans h
  · cases (packField_of_not_legal htag hlegal).symm.trans h
    rfl

theorem packFields_error_kind {vals : Values} {lay : Layout} (htags : ∀ d ∈ lay, (fieldKind d.tag).isSome = true)
    (h : packFields vals lay = .error r) : r.kind = .missingField ∨ r.kind = .fieldValue := by
  induction lay with
  | nil => cases h
  | cons d rest ih =>
    obtain ⟨htag, htags⟩ := List.forall_mem_cons.1 htags
    cases hv : lookupValue d.name vals with
    | none =>
      simp only [packFields, hv] at h
      cases h
      exact .inl rfl
    | some v =>
      rw [packFields_cons hv] at h
      obtain h | ⟨b, -, h⟩ := bind_eq_error.1 h
      · exact .inr (packField_error_kind htag h)
      · obtain h | ⟨bs, -, h⟩ := bind_eq_error.1 h
        · exact ih htags h
        · cases h

/-- On a well-formed layout only the values can be at fault. -/
theorem pack_error_kind_of_wf {lay : Layout} {vals : Values} (hwf : wfLayout lay = .ok ())
    (h : pack lay vals = .error r) : r.kind ∈ ([.unknownField, .fieldValue, .missingField] : List ErrorKind) := by
  rw [pack_of_layoutOk ((layoutOk_iff lay).2 hwf)] at h
  obtain h | ⟨-, -, h⟩ := bind_eq_error.1 h
  · simp [checkUnknown_error_kind h]
  obtain h | ⟨-, -, h⟩ := bind_eq_error.1 h
  · simp [checkDup_error_kind h]
  obtain h | ⟨-, -, h⟩ := bind_eq_error.1 h
  · simp [checkMissing_error_kind h]
  obtain hk | hk := packFields_error_kind (wfLayout_eq_ok_iff.1 hwf).1 h <;> simp [hk]

theorem pack_error_kind {lay : Layout} {vals : Values} (h : pack lay vals = .error r) :
    r.kind ∈ ([.layoutError, .unknownField, .fieldValue, .missingField] : List ErrorKind) := by
  cases hwf : wfLayout lay with
  | ok => exact List.mem_cons_of_mem _ (pack_error_kind_of_wf hwf h)
  | error x =>
    cases (pack_of_layout_error hwf vals).symm.trans h
    simp [wfLayoutFrom_error_kind hwf]

theorem unpack_error_kind {lay : Layout} {buf : Bytes} (h : unpack lay buf = .error r) :
    r.kind ∈ ([.layoutError, .payloadLength] : List ErrorKind) := by
  cases hwf : wfLayout lay with
  | ok => simp [(unpack_eq_error hwf h).1]
  | error x =>
    cases (unpack_of_layout_error hwf buf).symm.trans h
    simp [wfLayoutFrom_error_kind hwf]

theorem getField_error_kind {vals : Values} {fname : Name} (h : getField vals fname = .error r) :
    r.kind = .unknownField := by
  unfold getField at h
  split at h <;> cases h
  rfl

theorem detPush_error_kind {d : DetState} {buf : Bytes} {b : Byte} (h : detPush d buf b = .error r) :
    r.kind = .detectorBusy := by
  cases d <;> cases h
  rfl

theorem require_bind_eq_error {c : Bool} {e : Raise} {α : Type} {k : Unit → Except Raise α}
    (h : (require c e >>= k) = .error r) : r = e ∨ k () = .error r := by
  cases c with
  | true => exact .inr h
  | false => exact .inl (Except.error.inj h).symm

theorem openFrame_error_kind {policy : CrcPolicy} {f : Bytes} (h : openFrame policy f = .error r) :
    r.kind = .malformedFrame := by
  rw [openFrame_eq] at h
  obtain rfl | h := require_bind_eq_error h
  · rfl
  obtain rfl | h := require_bind_eq_error h
  · rfl
  obtain rfl | h := require_bind_eq_error h
  · rfl
  obtain rfl | h := require_bind_eq_error h
  · rfl
  obtain rfl | h := require_bind_eq_error h
  · rfl
  obtain rfl | h := require_bind_eq_error h
  · rfl
  · cases h

theorem resolve_error_kind {p : Params} {b : Block} {inst : Byte} (h : resolve p b inst = .error r) :
    r.kind = .noPriorInstruction ∨ r.kind = .unknownInstruction := by
  unfold resolve at h
  obtain ⟨-, h⟩ | ⟨-, h⟩ := ite_eq_iff.1 h
  · obtain ⟨-, h⟩ | ⟨-, h⟩ := ite_eq_iff.1 (map_eq_error.1 h)
    · rw [(byOp_eq_error h).1]
      exact .inr rfl
    · cases h
      exact .inl rfl
  · rw [(byOp_eq_error (map_eq_error.1 h)).1]
    exact .inr rfl

/-- The layout of a resolved frame is a registry entry's. -/
theorem wfLayout_of_resolve {p : Params} {b : Block} {inst : Byte} {x : Resolved} (h : resolve p b inst = .ok x) :
    wfLayout x.layout = .ok () := by
  obtain ⟨-, e, he, -, -, rfl⟩ | ⟨-, e, he, -, rfl⟩ := resolve_eq_ok h
  · exact (registry_layouts he).2
  · exact (registry_layouts he).1

theorem disassemble_error_kind {p : Params} {b : Block} {f : Bytes} (h : disassemble p b f = .error r) :
    r.kind ∈ ([.malformedFrame, .noPriorInstruction, .unknownInstruction] : List ErrorKind) := by
  unfold disassemble at h
  obtain h | ⟨o, -, h⟩ := bind_eq_error.1 h
  · simp [openFrame_error_kind h]
  obtain h | ⟨x, hx, h⟩ := bind_eq_error.1 h
  · obtain hk | hk := resolve_error_kind h <;> simp [hk]
  obtain h | ⟨fields, -, h⟩ := bind_eq_error.1 h
  · rw [(decodeFields_eq_error (wfLayout_of_resolve hx) h).1]
    decide
  · cases h

theorem assemble_error_kind {p : Params} {b : Block} {iname : Name} {id : Byte} {vals : Values}
    (h : assemble p b iname id vals = .error r) :
    r.kind ∈ ([.unknownInstruction, .idRange, .unknownField, .fieldValue, .missingField, .frameTooLong] :
      List ErrorKind) := by
  unfold assemble at h
  obtain h | ⟨e, he, h⟩ := bind_eq_error.1 h
  · rw [(byName_eq_error h).1]
    exact List.mem_cons_self
  obtain rfl | h := require_bind_eq_error h
  · exact List.mem_cons_of_mem _ List.mem_cons_self
  obtain h | ⟨params, -, h⟩ := bind_eq_error.1 h
  · have hk := pack_error_kind_of_wf (registry_layouts (byName_eq_ok he).1).1 h
    simp only [List.mem_cons, List.not_mem_nil, or_false] at hk ⊢
    tauto
  obtain rfl | h := require_bind_eq_error h
  · decide
  · cases h

/-- The errors of an effect are those of the function the command is made of. -/
theorem effect_error_kind {i : Instr} {p : Params} {b : Block} (h : effect i p b = .error r) :
    r.kind ∈ raisers i := by
  cases i with
  | crc16 | crcFeed | detClear | reset => cases h
  | stuff | unstuff =>
    obtain h | ⟨w, -, h⟩ := bind_eq_error.1 (map_eq_error.1 h)
    · exact List.mem_singleton.2 (windowOperand_error_kind h)
    · cases h
  | pack => exact pack_error_kind (map_eq_error.1 h)
  | unpack => exact unpack_error_kind (map_eq_error.1 h)
  | getField => exact List.mem_singleton.2 (getField_error_kind (map_eq_error.1 h))
  | detPush => exact List.mem_singleton.2 (detPush_error_kind (map_eq_error.1 h))
  | assemble => exact assemble_error_kind h
  | disassemble | status | ping | read | write | regWrite | action | factoryReset | reboot | clear | syncRead
  | syncWrite | bulkRead | bulkWrite => exact disassemble_error_kind h

end

/-- Settles O11: an instruction reports the error of its effect. -/
theorem onlyListedErrorsAreRaised : Obligations.OnlyListedErrorsAreRaised := by
  unfold Obligations.OnlyListedErrorsAreRaised
  refine ⟨fun i s t e h hres => ?instruction, fun code s t e h hres => ?badCommand⟩
  case instruction =>
    rcases exec_cases h with ⟨b, v, -, rfl⟩ | ⟨r, heffect, rfl⟩
    · cases hres
    · cases hres
      exact effect_error_kind heffect
  case badCommand =>
    cases (badCommand_eq code s).symm.trans h
    cases hres
    rfl

end Sys2Proof.Machine
end

section
/-! The invariants of the block (spec/10_state.md R36, spec/44_registry.md R216, spec/45_frame_detector.md R247): what
power-on establishes and every instruction keeps, every step keeps, and so does any number of steps. -/

namespace Sys2Proof.Machine

/-- What does not depend on the issues to come, and every instruction and every error keeps, every step keeps. -/
theorem step_keeps {P : State → Prop} (haccept : ∀ s rest, P s → P (s.accept rest))
    (hexec : ∀ i s t, P s → exec i s = .next t → P t) (herror : ∀ s raw r, P s → P (s.afterError raw r))
    {s t : State} (hs : P s) (h : step s = .next t) : P t := by
  rcases step_cases s with ⟨-, hwait⟩ | ⟨_, rest, i, -, -, hrun⟩ | ⟨_, rest, code, -, -, hbad⟩
  · cases hwait.symm.trans h
    exact hs
  · exact hexec i _ t (haccept s rest hs) (hrun.symm.trans h)
  · cases (badCommand_eq code _).symm.trans (hbad.symm.trans h)
    exact herror _ _ _ (haccept s rest hs)

/-- What every step keeps, any number of steps keeps. -/
theorem run_keeps {P : State → Prop} (hstep : ∀ s t, P s → step s = .next t → P t) (k : Nat) {s t : State} (hs : P s)
    (h : Host.Core.run Sys2Proof.core k s = .next t) : P t := by
  induction k generalizing s with
  | zero =>
    cases h
    exact hs
  | succ k ih =>
    obtain ⟨u, hu⟩ := blockNeverHalts s
    rw [run_succ_of_step hu] at h
    exact ih (hstep s u hs hu) h

theorem detInv_reset : Block.reset.DetInv := rfl

theorem corrInv_of_unset {s : State} (h : s.block.lastValid = false) : s.CorrInv := fun hset => by
  cases hset.symm.trans h

/-- Settles O18: power-on and every construction leave the reset block, whose detector is idle and whose cell is
unset. -/
theorem powerOnMeetsInvariants : Obligations.PowerOnMeetsInvariants := by
  unfold Obligations.PowerOnMeetsInvariants
  refine ⟨⟨detInv_reset, corrInv_of_unset rfl⟩, fun entries policy s h => ?constructed⟩
  case constructed =>
    obtain ⟨_, rfl⟩ := construct_eq_some h
    exact ⟨detInv_reset, corrInv_of_unset rfl⟩

/-- Each end of an instruction leaves the cell unset, as it was, or naming an entry. -/
theorem corrInv_of_cellEffect {i : Instr} {s t : State} (hs : s.CorrInv) (h : CellEffect s i t) : t.CorrInv := by
  cases h with
  | assembled he => exact fun _ => ⟨_, he, rfl⟩
  | instructionFrame _ _ _ hentry => exact fun _ => hentry
  | statusFrame | failed => exact hs
  | cleared => exact corrInv_of_unset rfl
  | kept _ hb =>
    obtain ⟨hop, hvalid⟩ := hb
    intro hset
    obtain ⟨e, he, heop⟩ := hs (hvalid.symm.trans hset)
    exact ⟨e, he, heop.trans hop.symm⟩

/-- Settles O20: every instruction keeps the invariant, by what its end does to the cell. -/
theorem correlationInvariantKept : Obligations.CorrelationInvariantKept := by
  unfold Obligations.CorrelationInvariantKept
  exact fun s t => step_keeps (fun _ _ h => h) (fun _ _ _ hs h => corrInv_of_cellEffect hs (cellEffect_of_exec h))
    fun _ _ _ h => h

/-- The invariant speaks of the detector's two elements alone. -/
theorem detInv_congr {b c : Block} (hstate : c.detState = b.detState) (hbuf : c.detBuf = b.detBuf) (h : b.DetInv) :
    c.DetInv := by
  unfold Block.DetInv at h ⊢
  rw [hstate, hbuf]
  exact h

section
variable (c : Block) {buf : Bytes} (x : Byte)

theorem detInv_restart : (c.withDetector (detRestart x).1 (detRestart x).2).DetInv := by
  unfold detRestart
  split
  · exact Or.inl rfl
  · exact rfl

/-- In the header phase a push extends the pattern or restarts (R241). -/
theorem detInv_headerPush (h : buf = [] ∨ buf = [0xFF] ∨ buf = [0xFF, 0xFF]) :
    (c.withDetector (detHeaderPush buf x).1 (detHeaderPush buf x).2).DetInv := by
  by_cases hff : (buf.length = 0 ∨ buf.length = 1) ∧ x = 0xFF
  · obtain ⟨hlen, rfl⟩ := hff
    rw [detHeaderPush_of_ff hlen rfl]
    rcases h with rfl | rfl | rfl
    · exact Or.inl rfl
    · exact Or.inr rfl
    · simp at hlen
  · by_cases hfd : buf.length = 2 ∧ x = 0xFD
    · obtain ⟨hlen, rfl⟩ := hfd
      rw [detHeaderPush_of_fd hlen rfl]
      rcases h with rfl | rfl | rfl
      · cases hlen
      · cases hlen
      · exact ⟨Nat.le_refl 3, rfl, by simp, by simp⟩
    · rw [detHeaderPush_of_mismatch hff hfd]
      exact detInv_restart c x

/-- In the body phase a push restarts at a bad reserved byte, completes at the declared length, or counts on (R243,
R244). -/
theorem detInv_bodyPush (hlen : 3 ≤ buf.length) (hheader : slice buf 0 3 = [0xFF, 0xFF, 0xFD])
    (hreserved : 4 ≤ buf.length → byteAt buf 3 = 0x00)
    (hcount : 7 ≤ buf.length → buf.length < declared buf + 7) :
    (c.withDetector (detBodyPush buf x).1 (detBodyPush buf x).2).DetInv := by
  by_cases hbad : buf.length = 3 ∧ x ≠ 0x00
  · rw [detBodyPush_of_reserved hbad.1 hbad.2]
    exact detInv_restart c x
  by_cases hreach : 6 ≤ buf.length ∧ buf.length + 1 = declared (buf ++ [x]) + 7
  · obtain ⟨hsix, hdecl⟩ := hreach
    rw [detBodyPush_of_reached hsix hdecl]
    refine ⟨by simp; omega, ?_, by simpa using hdecl⟩
    calc slice (buf ++ [x]) 0 4 = slice buf 0 4 := slice_append_left [x] (by omega)
      _ = slice buf 0 3 ++ [byteAt buf 3] := by
        rw [slice_zero, slice_zero, take_succ_eq_append_byteAt (by omega)]
      _ = [0xFF, 0xFF, 0xFD, 0x00] := by rw [hheader, hreserved (by omega)]; rfl
  · rw [detBodyPush_of_not_reached hbad hreach]
    refine ⟨by simp; omega, ?header, fun _ => ?reserved, fun hseven => ?count⟩
    case header => exact (slice_append_left [x] hlen).trans hheader
    case reserved =>
      show byteAt (buf ++ [x]) 3 = 0x00
      by_cases hthree : buf.length = 3
      · have hx : x = 0x00 := not_not.1 fun hne => hbad ⟨hthree, hne⟩
        rw [byteAt_append_right [x] hthree.le, hthree, hx]
        rfl
      · rw [byteAt_append_left [x] (by omega)]
        exact hreserved (by omega)
    case count =>
      show (buf ++ [x]).length < declared (buf ++ [x]) + 7
      have hsix : 6 ≤ buf.length := by simpa using hseven
      have hnot : buf.length + 1 ≠ declared (buf ++ [x]) + 7 := fun h => hreach ⟨hsix, h⟩
      rw [List.length_append, List.length_singleton]
      by_cases hseven : 7 ≤ buf.length
      · have hless := hcount hseven
        rw [declared_append [x] hseven] at hnot ⊢
        omega
      · omega

theorem detInv_push {b : Block} {r : DetState × Bytes} (h : b.DetInv)
    (hpush : detPush b.detState b.detBuf x = .ok r) : (c.withDetector r.1 r.2).DetInv := by
  unfold Block.DetInv at h
  cases hstate : b.detState with
  | idle =>
    rw [hstate] at h hpush
    cases hpush
    exact detInv_headerPush c x (.inl h)
  | starting =>
    rw [hstate] at h hpush
    cases hpush
    exact detInv_headerPush c x (.inr h)
  | inProgress =>
    rw [hstate] at h hpush
    cases hpush
    obtain ⟨hlen, hheader, hreserved, hcount⟩ := h
    exact detInv_bodyPush c x hlen hheader hreserved hcount
  | complete =>
    rw [hstate] at hpush
    cases hpush

end

/-- The commands that write the detector push a byte, clear it or reset the block; the others leave it (R47). -/
theorem detInv_of_exec {i : Instr} {s t : State} (hs : s.block.DetInv) (h : exec i s = .next t) : t.block.DetInv := by
  obtain ⟨-, hkeeps, -⟩ := onlyListedElementsAreWritten i s t h
  cases hwrites : writesDetector i with
  | false =>
    obtain ⟨hstate, hbuf⟩ := hkeeps hwrites
    exact detInv_congr hstate hbuf hs
  | true =>
    cases i with
    | detPush x =>
      rcases exec_cases h with ⟨b, v, heffect, rfl⟩ | ⟨r, -, rfl⟩
      · obtain ⟨r, hpush, heq⟩ := map_eq_ok.1 heffect
        cases heq
        exact detInv_push s.block x hs hpush
      · exact hs
    | detClear =>
      cases h
      exact rfl
    | reset =>
      rw [exec_reset_block h]
      exact detInv_reset
    | crc16 | crcFeed | stuff | unstuff | pack | unpack | getField | assemble | disassemble | status | ping | read
    | write | regWrite | action | factoryReset | reboot | clear | syncRead | syncWrite | bulkRead | bulkWrite =>
      cases hwrites

/-- Settles O19: every instruction keeps the invariant. -/
theorem detectorInvariantKept : Obligations.DetectorInvariantKept := by
  unfold Obligations.DetectorInvariantKept
  exact fun s t => step_keeps (P := fun s => s.block.DetInv) (fun _ _ h => h) (fun _ _ _ => detInv_of_exec)
    fun _ _ _ h => h

/-- A declared length is a 16-bit number, and no buffer passes it (R247). -/
theorem detBuf_length_le_of_detInv {b : Block} (h : b.DetInv) : b.detBuf.length ≤ 65542 := by
  have hdeclared := declared_le b.detBuf
  unfold Block.DetInv at h
  split at h
  · simp [h]
  · rcases h with h | h <;> simp [h]
  · obtain ⟨-, -, -, hcount⟩ := h
    omega
  · obtain ⟨-, -, hlength⟩ := h
    omega

/-- Settles O21: the bound follows from the invariant, which any number of steps keeps. -/
theorem bufferStaysWithinCapacity : Obligations.BufferStaysWithinCapacity := by
  unfold Obligations.BufferStaysWithinCapacity
  exact fun k s t hs h => detBuf_length_le_of_detInv (run_keeps detectorInvariantKept k hs h)

end Sys2Proof.Machine
end

section
/-! The readout port (spec/10_state.md R34, R40). -/

namespace Sys2Proof.Machine

theorem readout_detState {s : State} {d : DetState} (h : s.block.detState = d) :
    s.readout .detState = .state d.code := by
  rw [← h]
  rfl

/-- Settles O55: each element is read as it is, and the detector's state by its code. -/
theorem readoutDeliversElements : Obligations.ReadoutDeliversElements := by
  unfold Obligations.ReadoutDeliversElements
  exact fun s => ⟨rfl, readout_detState, readout_detState, readout_detState, readout_detState, rfl, rfl, rfl, rfl⟩

end Sys2Proof.Machine
end

section
/-! Feeding the detector (spec/45_frame_detector.md R244, R250, R251, spec/30_encoding.md R103): chunks chain, and a
whole frame behind bytes that leave its first bytes in the buffer is found at its last byte. -/

namespace Sys2Proof.Machine

/-- A chunk consumed whole leaves the rest of the stream to the state it ends in (R250). -/
theorem detFeed_append_of_consumed {a : Bytes} {s : State} (b : Bytes) (h : (detFeed a s).2 = []) :
    detFeed (a ++ b) s = detFeed b (detFeed a s).1 := by
  induction a generalizing s with
  | nil => rfl
  | cons x a ih =>
    cases hpush : detPush s.block.detState s.block.detBuf x with
    | ok r =>
      rw [detFeed_cons_ok hpush] at h ⊢
      rw [List.cons_append, detFeed_cons_ok hpush]
      exact ih h
    | error e =>
      rw [detFeed_cons_error hpush] at h
      cases h

/-- A refused byte ends the stream, wherever the chunk after it was to begin (R103). -/
theorem detFeed_append_of_refused {a : Bytes} {s : State} (b : Bytes) (h : (detFeed a s).2 ≠ []) :
    detFeed (a ++ b) s = ((detFeed a s).1, (detFeed a s).2 ++ b) := by
  induction a generalizing s with
  | nil => exact absurd rfl h
  | cons x a ih =>
    cases hpush : detPush s.block.detState s.block.detBuf x with
    | ok r =>
      rw [detFeed_cons_ok hpush] at h ⊢
      rw [List.cons_append, detFeed_cons_ok hpush]
      exact ih h
    | error e =>
      rw [List.cons_append, detFeed_cons_error hpush, detFeed_cons_error hpush]
      rfl

/-- Settles O41, by induction on the first chunk. -/
theorem chunkSplitChangesNothing : Obligations.ChunkSplitChangesNothing :=
  fun _ b _ => ⟨detFeed_append_of_consumed b, detFeed_append_of_refused b⟩

/-- The detector consumes a stream from `s` and ends with these two elements. -/
structure Feeds (s : State) (stream : Bytes) (d : DetState) (buf : Bytes) : Prop where
  consumed : (detFeed stream s).2 = []
  state : (detFeed stream s).1.block.detState = d
  buffer : (detFeed stream s).1.block.detBuf = buf

theorem feeds_nil {s : State} {d : DetState} {buf : Bytes} (hd : s.block.detState = d) (hbuf : s.block.detBuf = buf) :
    Feeds s [] d buf := ⟨rfl, hd, hbuf⟩

/-- One more byte is one push (R250). -/
theorem Feeds.push {s : State} {stream buf buf' : Bytes} {d d' : DetState} {b : Byte} (h : Feeds s stream d buf)
    (hpush : detPush d buf b = .ok (d', buf')) : Feeds s (stream ++ [b]) d' buf' := by
  obtain ⟨hconsumed, rfl, rfl⟩ := h
  have hfeed := detFeed_cons_ok (bs := []) hpush
  rw [← detFeed_append_of_consumed [b] hconsumed] at hfeed
  constructor <;> rw [hfeed] <;> rfl

/-- The detector's state once it has buffered `k` bytes of a whole frame, and not yet all of it (R251(a)). -/
def phaseAt (k : Nat) : DetState := if k = 0 then .idle else if k ≤ 2 then .starting else .inProgress

theorem phaseAt_of_three_le {k : Nat} (h : 3 ≤ k) : phaseAt k = .inProgress := by
  rw [phaseAt, if_neg (by omega), if_neg (by omega)]

theorem phaseAt_of_one_or_two {k : Nat} (h : k = 1 ∨ k = 2) : phaseAt k = .starting := by
  rw [phaseAt, if_neg (by omega), if_pos (by omega)]

section
variable {f : Bytes} (hf : WholeFrame f)
include hf

theorem WholeFrame.exists_rest : ∃ rest, f = 0xFF :: 0xFF :: 0xFD :: 0x00 :: rest := by
  obtain ⟨hheader, -⟩ := hf
  refine ⟨f.drop 4, ?_⟩
  rw [slice_zero] at hheader
  calc f = f.take 4 ++ f.drop 4 := (List.take_append_drop 4 f).symm
    _ = 0xFF :: 0xFF :: 0xFD :: 0x00 :: f.drop 4 := by rw [hheader]; rfl

/-- The test for the declared length, on the first bytes of the frame. -/
theorem WholeFrame.reached_take_iff {k : Nat} (hk : k < f.length) :
    (6 ≤ (f.take k).length ∧ (f.take k).length + 1 = declared (f.take k ++ [byteAt f k]) + 7) ↔ k + 1 = f.length := by
  obtain ⟨-, hlength⟩ := hf
  rw [List.length_take_of_le hk.le, ← take_succ_eq_append_byteAt hk]
  constructor
  · rintro ⟨hsix, hdecl⟩
    rw [declared_take (by omega) (by omega)] at hdecl
    omega
  · intro hlast
    rw [declared_take (by omega) (by omega)]
    omega

/-- A byte of the frame before its last only grows the buffer. -/
theorem WholeFrame.push_byte {k : Nat} (hk : k + 1 < f.length) :
    detPush (phaseAt k) (f.take k) (byteAt f k) = .ok (phaseAt (k + 1), f.take (k + 1)) := by
  have hreach := mt (hf.reached_take_iff (by omega : k < f.length)).1 (by omega)
  match k with
  | 0 | 1 | 2 | 3 =>
    obtain ⟨rest, rfl⟩ := hf.exists_rest
    rfl
  | k + 4 =>
    have hres : ¬ ((f.take (k + 4)).length = 3 ∧ byteAt f (k + 4) ≠ 0x00) := by
      rw [List.length_take_of_le (by omega)]
      omega
    have hgrow := take_succ_eq_append_byteAt (f := f) (k := k + 4) (by omega)
    rw [phaseAt_of_three_le (by omega), phaseAt_of_three_le (by omega), hgrow, ← detBodyPush_of_not_reached hres hreach]
    rfl

/-- The last byte of the frame completes it. -/
theorem WholeFrame.push_last {k : Nat} (hk : f.length = k + 1) :
    detPush (phaseAt k) (f.take k) (byteAt f k) = .ok (.complete, f) := by
  obtain ⟨hsix, hdecl⟩ := (hf.reached_take_iff (by omega : k < f.length)).2 hk.symm
  have hwhole : f.take k ++ [byteAt f k] = f := by
    rw [← take_succ_eq_append_byteAt (by omega), ← hk, List.take_length]
  have hbody : detBodyPush (f.take k) (byteAt f k) = (.complete, f) :=
    (detBodyPush_of_reached hsix hdecl).trans (by rw [hwhole])
  rw [List.length_take_of_le (by omega)] at hsix
  rw [phaseAt_of_three_le (by omega), ← hbody]
  rfl

section
variable {s : State} {pre : Bytes} {j : Nat} (h : Feeds s (pre ++ f.take j) (phaseAt j) (f.take j))
include h

/-- Once the buffer holds the frame's first bytes, it follows the frame byte by byte. -/
theorem feeds_take {k : Nat} (hjk : j ≤ k) (hk : k < f.length) :
    Feeds s (pre ++ f.take k) (phaseAt k) (f.take k) := by
  induction k, hjk using Nat.le_induction with
  | base => exact h
  | succ k hjk ih =>
    have hnext := (ih (by omega)).push (hf.push_byte hk)
    rwa [List.append_assoc, ← take_succ_eq_append_byteAt (by omega)] at hnext

theorem feeds_whole (hj : j < f.length) : Feeds s (pre ++ f) .complete f := by
  obtain ⟨k, hk⟩ := Nat.exists_eq_add_one_of_ne_zero (Nat.ne_of_gt (Nat.zero_lt_of_lt hj))
  have hnext := (feeds_take hf h (by omega : j ≤ k) (by omega)).push (hf.push_last hk)
  rwa [List.append_assoc, ← take_succ_eq_append_byteAt (by omega), ← hk, List.take_length] at hnext

end

end

/-- Settles O39: from an idle detector the frame's first zero bytes are in the buffer. -/
theorem wholeFrameCompletesAtItsEnd : Obligations.WholeFrameCompletesAtItsEnd := by
  unfold Obligations.WholeFrameCompletesAtItsEnd
  intro f s hf hidle hempty
  have hstart : Feeds s ([] ++ f.take 0) (phaseAt 0) (f.take 0) := feeds_nil hidle hempty
  constructor
  · intro k hk
    obtain ⟨hconsumed, hstate, hbuf⟩ := feeds_take hf hstart (Nat.zero_le k) hk
    rw [List.nil_append] at hconsumed hstate hbuf
    refine ⟨fun h => ?idle, fun h => ?starting, fun h => ?inProgress, hbuf, hconsumed⟩
    case idle => rw [hstate, h]; rfl
    case starting => rw [hstate, phaseAt_of_one_or_two h]
    case inProgress => rw [hstate, phaseAt_of_three_le h]
  · have hlength := hf.2
    obtain ⟨hconsumed, hstate, hbuf⟩ := feeds_whole hf hstart (by omega)
    exact ⟨hbuf, hstate, hconsumed⟩

/-- Stray header bytes are held in pairs: every third `FF` restarts the search with itself (R251(c), R242). -/
theorem feeds_stray {s : State} (hidle : s.block.detState = .idle) (hempty : s.block.detBuf = []) (m : Nat) :
    Feeds s (List.replicate (2 * m + 1) 0xFF) .starting [0xFF] ∧
      Feeds s (List.replicate (2 * m + 2) 0xFF) .starting [0xFF, 0xFF] := by
  have hsecond {n : Nat} (h : Feeds s (List.replicate n 0xFF) .starting [0xFF]) :
      Feeds s (List.replicate (n + 1) 0xFF) .starting [0xFF, 0xFF] := by
    rw [List.replicate_succ']
    exact h.push rfl
  induction m with
  | zero =>
    have hfirst : Feeds s (List.replicate 1 0xFF) .starting [0xFF] := (feeds_nil hidle hempty).push rfl
    exact ⟨hfirst, hsecond hfirst⟩
  | succ m ih =>
    have hfirst : Feeds s (List.replicate (2 * (m + 1) + 1) 0xFF) .starting [0xFF] := by
      rw [List.replicate_succ']
      exact ih.2.push rfl
    exact ⟨hfirst, hsecond hfirst⟩

/-- A whole frame starts with two more header bytes. -/
theorem WholeFrame.replicate_append_take {f : Bytes} (hf : WholeFrame f) (k : Nat) :
    List.replicate k 0xFF ++ f.take 2 = List.replicate (k + 2) 0xFF := by
  obtain ⟨rest, rfl⟩ := hf.exists_rest
  exact List.replicate_append_replicate (m := 2)

/-- Settles O40: with the frame's own two, an even number of stray bytes leaves two in the buffer, the frame's first
two, and an odd number leaves one, which its `FD` does not follow. -/
theorem strayHeaderBytesParity : Obligations.StrayHeaderBytesParity := by
  unfold Obligations.StrayHeaderBytesParity
  intro k f s hf hidle hempty
  have hlength := hf.2
  have hstray := hf.replicate_append_take k
  constructor
  · intro heven
    obtain ⟨-, htwo⟩ := feeds_stray hidle hempty (k / 2)
    have hstart : Feeds s (List.replicate k 0xFF ++ f.take 2) (phaseAt 2) (f.take 2) := by
      rw [hstray, show k + 2 = 2 * (k / 2) + 2 by omega]
      obtain ⟨rest, rfl⟩ := hf.exists_rest
      exact htwo
    obtain ⟨hconsumed, hstate, hbuf⟩ := feeds_whole hf hstart (by omega)
    exact ⟨hstate, hbuf, hconsumed⟩
  · intro hodd
    obtain ⟨hone, -⟩ := feeds_stray hidle hempty (k / 2 + 1)
    rw [show 2 * (k / 2 + 1) + 1 = k + 2 by omega, ← hstray] at hone
    have hlost : Feeds s (List.replicate k 0xFF ++ f.take 3) .idle [] := by
      obtain ⟨rest, rfl⟩ := hf.exists_rest
      have hnext := hone.push (b := 0xFD) (d' := .idle) (buf' := []) rfl
      rwa [List.append_assoc] at hnext
    exact ⟨hone.buffer, hlost.state, hlost.buffer⟩

end Sys2Proof.Machine
end

section
/-! The CRC engine (spec/41_crc.md R120 to R125): the table entry by entry, the shift as a linear map, which carries the
entries to whole steps, and the laws of the fold. -/

namespace Sys2Proof.Machine

/-- The table is listed in eight parts of 32 entries. -/
theorem crcTable_length : crcTable.length = 256 := by
  simp only [crcTable, List.length_append]
  rfl

/-- The table as the spec lists it is the generator's (R121), entry by entry. -/
theorem crcEntry_eq_generator (i : Byte) : crcEntry i = crcGenerator i := by
  revert i
  decide

theorem crcShift_eq_xor (c : Half) : crcShift c = c <<< 1 ^^^ (if c.msb then 0x8005 else 0) := by
  unfold crcShift
  split <;> simp

theorem crcShift_xor (a b : Half) : crcShift (a ^^^ b) = crcShift a ^^^ crcShift b := by
  have hpoly : (if (a ^^^ b).msb then (0x8005 : Half) else 0) =
      (if a.msb then 0x8005 else 0) ^^^ (if b.msb then 0x8005 else 0) := by
    rw [BitVec.msb_xor]
    cases a.msb <;> cases b.msb <;> decide
  rw [crcShift_eq_xor, crcShift_eq_xor, crcShift_eq_xor, hpoly, BitVec.shiftLeft_xor_distrib]
  ac_rfl

theorem crcShifts_xor (n : Nat) (a b : Half) : crcShifts n (a ^^^ b) = crcShifts n a ^^^ crcShifts n b := by
  induction n generalizing a b with
  | zero => rfl
  | succ n ih => rw [crcShifts, crcShifts, crcShifts, crcShift_xor, ih]

/-- Eight shifts move a low byte up: none of its bits reaches the register's end. -/
theorem crcShifts_low (l : Byte) : crcShifts 8 (l.setWidth 16) = l.setWidth 16 <<< 8 := by
  revert l
  decide

/-- A register is its high byte above its low byte. -/
theorem xor_high_low (c : Half) :
    ((c >>> 8).setWidth 8 : Byte).setWidth 16 <<< 8 ^^^ (c.setWidth 8 : Byte).setWidth 16 = c := by
  ext i hi
  by_cases hlow : i < 8
  · simp [hlow, BitVec.getLsbD_eq_getElem hi]
  · have hhigh : i - 8 < 8 := by omega
    simp [hlow, hhigh, show 8 + (i - 8) = i by omega, BitVec.getLsbD_eq_getElem hi]

/-- Shifted up by a byte, a register keeps its low byte alone. -/
theorem shiftLeft_low (c : Half) : (c.setWidth 8 : Byte).setWidth 16 <<< 8 = c <<< 8 := by
  ext i hi
  by_cases hlow : i < 8
  · simp [hlow]
  · have hhigh : i - 8 < 8 := by omega
    simp [hlow, hhigh, BitVec.getLsbD_eq_getElem (show i - 8 < 16 by omega)]

/-- A step is eight shifts of the register with the byte entered at its high end (R121, R122): the high byte's shifts
are the table's entry, the low byte's only move it up. -/
theorem crcStep_eq_shifts (c : Half) (b : Byte) : crcStep c b = crcShifts 8 (c ^^^ (b.setWidth 16 <<< 8)) := by
  have hsplit : c ^^^ (b.setWidth 16 <<< 8) =
      (c.setWidth 8 : Byte).setWidth 16 ^^^ (((c >>> 8).setWidth 8 ^^^ b : Byte).setWidth 16 <<< 8) := by
    rw [BitVec.setWidth_xor, BitVec.shiftLeft_xor_distrib]
    nth_rw 1 [← xor_high_low c]
    ac_rfl
  rw [hsplit, crcShifts_xor, crcShifts_low, shiftLeft_low, crcStep, crcEntry_eq_generator]
  rfl

/-- Settles O24: the table is checked entry by entry against the generator, and linearity gives the steps. -/
theorem crcTableIsPolynomialDivision : Obligations.CrcTableIsPolynomialDivision := by
  unfold Obligations.CrcTableIsPolynomialDivision
  exact ⟨crcTable_length, crcEntry_eq_generator, fun _ _ => rfl, crcStep_eq_shifts, by decide⟩

theorem crc16_append (seed : Half) (a b : Bytes) : crc16 seed (a ++ b) = crc16 (crc16 seed a) b := List.foldl_append

theorem crc16_replicate_zero (n : Nat) : crc16 0 (List.replicate n 0x00) = 0x0000 := by
  induction n with
  | zero => rfl
  | succ n ih =>
    have hstep : crcStep 0 0x00 = 0 := by decide
    rw [List.replicate_succ, crc16, List.foldl_cons, hstep]
    exact ih

theorem crcStep_zero (b : Byte) : crcStep 0 b = crcEntry b := by simp [crcStep]

/-- Entering a register's high byte leaves the table nothing to add: entry 0 is 0. -/
theorem crcStep_highByte (c : Half) : crcStep c (highByte c) = c <<< 8 := by
  have hentry : crcEntry 0#8 = 0#16 := by decide
  rw [crcStep, highByte, BitVec.xor_self, hentry, BitVec.xor_zero]

/-- Entering a register's two bytes, high byte first, clears it. -/
theorem crc16_own_bytes (c : Half) : crc16 c [highByte c, lowByte c] = 0 := by
  have hlow : lowByte c = highByte (c <<< 8) := by
    unfold lowByte highByte
    ext i hi
    simp [show 8 + i < 16 by omega, BitVec.getLsbD_eq_getElem (show i < 16 by omega)]
  have hout : c <<< 8 <<< 8 = 0 := by
    rw [← BitVec.shiftLeft_add]
    exact BitVec.shiftLeft_eq_zero (Nat.le_refl 16)
  calc crc16 c [highByte c, lowByte c] = crcStep (crcStep c (highByte c)) (lowByte c) := rfl
    _ = 0 := by rw [crcStep_highByte, hlow, crcStep_highByte, hout]

/-- Settles O25; in the frame's byte order the residue of the one-byte message `01` is not zero. -/
theorem crcEngineLaws : Obligations.CrcEngineLaws := by
  unfold Obligations.CrcEngineLaws
  refine ⟨fun _ => rfl, crc16_append, crc16_replicate_zero, crcStep_zero, fun m => ?residue, [0x01], by decide⟩
  case residue => rw [crc16_append, crc16_own_bytes]

end Sys2Proof.Machine
end
